-- ==== Sys2Proof/Word.lean ====
section
/-! DEFINITION. The words of the part: bytes, the 4-bit, 12-bit and 16-bit fields of frames, operator text, and fixed-size tables read and written by index. -/

namespace Sys2Proof

/-- A byte of a frame, of a body or of the operator line. -/
abbrev Byte := BitVec 8

/-- A 4-bit field: tier, distance, hop budget, hops used, QUAL (Tables 2-1 to 2-3). -/
abbrev Nibble := BitVec 4

/-- A station code or special destination, 12 bits (R1). -/
abbrev Code := BitVec 12

/-- A serial, 16 bits (R4). -/
abbrev Serial := BitVec 16

/-- Characters of the operator line. -/
abbrev Text := List Byte

/-- Entry `i` of a table of fixed size. -/
def look {α : Type} {n : Nat} (v : Vector α n) (i : Fin n) : α := v[i.val]

/-- The table with entry `i` replaced. -/
def place {α : Type} {n : Nat} (v : Vector α n) (i : Fin n) (x : α) : Vector α n := v.set i.val x i.isLt

end Sys2Proof
end

