-- ==== Sys2Proof/Config.lean ====
section
/-! DEFINITION. The sizes and fixed numbers the spec gives the part. Nothing here is left free by the spec: no free value is needed (NOTES.md, Assumptions). -/

namespace Sys2Proof.Config

/-- Input buffer, bytes (R168). -/
def inputCapacity : Nat := 256
/-- Output buffer, bytes (R169). -/
def outputCapacity : Nat := 1024
/-- Post body buffer, bytes (R11). -/
def bodyCapacity : Nat := 512
/-- Characters stored of one line (R168). -/
def lineLimit : Nat := 160
/-- ORDY is deasserted at this many bytes or more (R168). -/
def ordyOff : Nat := 192
/-- ORDY is asserted at this many bytes or fewer (R168). -/
def ordyOn : Nat := 64
/-- Largest payload length (R16). -/
def maxPayload : Nat := 73
/-- Clock watches, milliseconds (R46, R47). -/
def clockWatch : Nat := 20
/-- Listening period, milliseconds (R149). -/
def listening : Nat := 30000
/-- Milliseconds in a minute, for minute events and the IDENT and BEACON timers (R100, R111, R147). -/
def minute : Nat := 60000
/-- Cap of the echo wait, seconds (R155). -/
def echoCap : Nat := 480
/-- Receipt Pool and Outcome List records (R164, R165). -/
def poolSize : Nat := 16
/-- Single entries of the Distance Table, and pinned ones (R105). -/
def singles : Nat := 48
/-- Entries that may be pinned (R105, R112). -/
def pins : Nat := 8
/-- CONGESTED below this many free slots (R85). -/
def lowSlots : Nat := 8
/-- CONGESTED below this many free blocks (R85). -/
def lowBlocks : Nat := 48
/-- Occupancy windows in the history (R54). -/
def windows : Nat := 16
/-- ANY-CENTRE (Table 1-1). -/
def anyCentre : Code := 4094
/-- ALL (Table 1-1). -/
def allStations : Code := 4095
/-- The 24 sync bits in order of arrival, first bit most significant (R14). -/
def sync : BitVec 24 := 0x5AC369
/-- The sync as samples, in order of arrival (R14, R35). -/
def syncSamples : List Bool := (List.range 24).map fun i => sync.getMsbD i

end Sys2Proof.Config
end

