-- ==== Sys2Proof/Syntax.lean ====
section
/-! DEFINITION. The commands of the part: one constructor of Instr per row of spec/opcode_table.json, in the table's order. The table gives no operands; each constructor's docstring says what its operands stand for. -/

namespace Sys2Proof

/-- A message identity: origin code and serial (R4). -/
structure Identity where
  origin : Code
  serial : Serial
deriving DecidableEq, Repr

/-- A line of the operator line as it is taken from the input buffer: its stored characters without the carriage return, and its two marks (R168). -/
structure OpLine where
  text    : Text
  overrun : Bool
  tooLong : Bool
deriving DecidableEq, Repr

/-- An edge of RXC; a rising one with the levels of RXD and QUAL3..0 at that moment (R32, R33). -/
inductive RxcEdge where
  | falling
  | rising (rxd : Bool) (qual : Nibble)
deriving DecidableEq, Repr

/-- An edge of TXC (R32). -/
inductive TxcEdge where
  | falling | rising
deriving DecidableEq, Repr

/-- The operations and events of the part. `samples` are the levels of RXD at the rising edges of RXC since the last row, the last of them the edge at which the event comes (n4); without any, SYNC_FOUND stands for the sync alone, and a clock row for a falling edge. `args` are the words of a command line after its name (after the number, for TEST). -/
inductive Instr where
  /-- RESET: power or pin reset; `orate` is ORATE1..0 as sampled (R167, R178). -/
  | reset (orate : BitVec 2)
  /-- CHARACTER_RECEIVED: a character on ORX, and whether its stop bit was 0 (R167, R168). -/
  | characterReceived (ch : Byte) (framingError : Bool)
  /-- OHOLD_ASSERTED (R169). -/
  | oholdAsserted
  /-- OHOLD_DEASSERTED (R169). -/
  | oholdDeasserted
  /-- CHARACTER_SENT: the character being sent on OTX ends (R169). -/
  | characterSent
  /-- OUTPUT_PLACED: composed lines that waited for room are placed (R169). -/
  | outputPlaced
  /-- NOTICE_EMITTED (R177). -/
  | noticeEmitted
  /-- UNKNOWN_COMMAND: a taken line that starts no command (R170). -/
  | unknownCommand (line : OpLine)
  /-- CODE n (R2). -/
  | code (args : List Text)
  /-- CALL text (R2). -/
  | call (args : List Text)
  /-- CENTRE ON or OFF (R3). -/
  | centre (args : List Text)
  /-- HOPS n (R171). -/
  | hops (args : List Text)
  /-- TIMING name value (R171). -/
  | timing (args : List Text)
  /-- CLASS class [PREEMPT ON or OFF] [REDUNDANCY n] (R7). -/
  | classCmd (args : List Text)
  /-- SPAN i base k distance (R114). -/
  | span (args : List Text)
  /-- FAULTSEL fault and words (R58). -/
  | faultsel (args : List Text)
  /-- TEST 1 (R50). -/
  | test1 (args : List Text)
  /-- TEST 2 (R31). -/
  | test2 (args : List Text)
  /-- TEST 3 (R103). -/
  | test3 (args : List Text)
  /-- TEST 4 (R88). -/
  | test4 (args : List Text)
  /-- SELF_TEST_COMPLETE (R173). -/
  | selfTestComplete
  /-- ONAIR (R174). -/
  | onair (args : List Text)
  /-- STATUS (R175). -/
  | status (args : List Text)
  /-- POST destination class [hops] (R172). -/
  | post (args : List Text)
  /-- BODY_LINE: a line taken while a body is collected, other than the closing line (R11). -/
  | bodyLine (line : OpLine)
  /-- CLOSING_LINE: the line "." that ends a body (R153). -/
  | closingLine
  /-- FETCH [origin/serial] (R161). -/
  | fetch (args : List Text)
  /-- FETCH_COMPLETE: the last character of the FETCH closing line is sent (R162). -/
  | fetchComplete
  /-- CANCEL serial (R158). -/
  | cancel (args : List Text)
  /-- LIST (R176). -/
  | list (args : List Text)
  /-- ROUTES (R117). -/
  | routes (args : List Text)
  /-- OUTCOMES (R165). -/
  | outcomes (args : List Text)
  /-- PIN code (R112). -/
  | pin (args : List Text)
  /-- UNPIN code (R112). -/
  | unpin (args : List Text)
  /-- PURGE (R113). -/
  | purge (args : List Text)
  /-- MASK kind (R177). -/
  | mask (args : List Text)
  /-- UNMASK kind (R177). -/
  | unmask (args : List Text)
  /-- FAULTCLR (R64). -/
  | faultclr (args : List Text)
  /-- QUIET (R148). -/
  | quiet (args : List Text)
  /-- RESUME (R148). -/
  | resume (args : List Text)
  /-- RESTART (R63). -/
  | restart (args : List Text)
  /-- CHANNEL_RESTART: the request reaches MP, AC and MS (R48, R87, R150). -/
  | channelRestart
  /-- DCD_ASSERTED (R35). -/
  | dcdAsserted
  /-- DCD_DEASSERTED (R39). -/
  | dcdDeasserted
  /-- SYNC_FOUND: the last sample ends the sync (R35, R36). -/
  | syncFound (samples : List Bool := Config.syncSamples)
  /-- FRAME_ABANDONED: the last sample ends byte 4, which is above 73 (R37, R40). -/
  | frameAbandoned (samples : List Bool)
  /-- SKIPPED_FRAME_PASSED: the last sample ends a skipped frame (R40). -/
  | skippedFramePassed (samples : List Bool)
  /-- FRAME_COMPLETES: the last sample ends the check of a frame being gathered; QUAL3..0 at that moment (R33, R38). -/
  | frameCompletes (samples : List Bool) (qual : Nibble)
  /-- FRAME_TAKEN (R22). -/
  | frameTaken
  /-- HANDLING_ENDS (R41). -/
  | handlingEnds
  /-- WINDOW_END (R54). -/
  | windowEnd
  /-- RECEIVE_CLOCK_LOSS (R46). -/
  | receiveClockLoss
  /-- RECEIVE_CLOCK_RESUMES: an edge of RXC (R32, R46). -/
  | receiveClockResumes (edge : RxcEdge := .falling)
  /-- TRANSMIT_CLOCK_LOSS (R47). -/
  | transmitClockLoss
  /-- TRANSMIT_CLOCK_RESUMES: an edge of TXC (R32, R47). -/
  | transmitClockResumes (edge : TxcEdge := .falling)
  /-- ACCESS_DELAY_END (R140). -/
  | accessDelayEnd
  /-- KEYUP_EXPIRY (R42). -/
  | keyupExpiry
  /-- FRAME_SENT: the last check bit of the frame under way has been driven (R43). -/
  | frameSent
  /-- TRAIN_ENDED: the eighth trailer bit ends (R44). -/
  | trainEnded
  /-- TIME_LIMIT_EXPIRY (R45). -/
  | timeLimitExpiry
  /-- ASSEMBLY_DEADLINE_EXPIRY of a slot (R82). -/
  | assemblyDeadlineExpiry (slot : Fin 64)
  /-- RELAY_DEADLINE_EXPIRY of a slot (R124). -/
  | relayDeadlineExpiry (slot : Fin 64)
  /-- ECHO_DEADLINE_EXPIRY of a slot (R157). -/
  | echoDeadlineExpiry (slot : Fin 64)
  /-- RECEIPT_DEADLINE_EXPIRY of the pool record of an identity (R132). -/
  | receiptDeadlineExpiry (id : Identity)
  /-- IDENT_TIMER_EXPIRY (R147). -/
  | identTimerExpiry
  /-- BEACON_TIMER_EXPIRY (R147). -/
  | beaconTimerExpiry
  /-- LISTENING_PERIOD_END (R149). -/
  | listeningPeriodEnd
  /-- IDENTITY_TABLE_MINUTE_EVENT (R100). -/
  | identityTableMinuteEvent
  /-- SWEEP_VISIT of the next bucket (R101). -/
  | sweepVisit
  /-- SWEEP_COMPLETES (R100). -/
  | sweepCompletes
  /-- DISTANCE_TABLE_MINUTE_EVENT (R111). -/
  | distanceTableMinuteEvent
  /-- AGING_PASS_VISIT of the next entry of the pass (R111). -/
  | agingPassVisit
  /-- AGING_PASS_COMPLETES (R111). -/
  | agingPassCompletes
deriving DecidableEq, Repr

end Sys2Proof
end

