-- ==== Sys2Proof/Decode.lean ====
section
/-! DEFINITION. Decoding table words. No row of spec/opcode_table.json gives bits (spec/98_reader.md: "n_rows_with_fixed": 0), so no word spells a command (n24). -/

namespace Sys2Proof

/-- The command that a word spells by the table's bits: none, for every word. -/
def decodeTableWord (_nbits _w : Nat) : Option Instr := none

end Sys2Proof
end

