-- ==== Sys2Proof/Machine/State.lean ====
section
/-! DEFINITION. The state of the part, block by block (00_scope.md, Block diagram), as plain data, with its reset value; the outcomes' reasons; and one updater per block of State. -/

namespace Sys2Proof.Machine

/-! ## Outcomes -/

/-- Why a step stops with a fault. The spec gives the part no state in which it stops, so there is no reason: no meaning raises a fault. -/
inductive Fault where
deriving DecidableEq, Repr

/-- Why a step has no meaning. -/
inductive Refusal where
  /-- Raised by exec's arm of a row that has no meaning yet; safe (the model stops where the part goes on). No arm raises it now. -/
  | notModelled (mnemonic : String)
deriving DecidableEq, Repr

/-! ## Classes, faults and notices -/

/-- Precedence class (R6). -/
inductive MsgClass where
  | life | urgent | welfare | routine
deriving DecidableEq, Repr

/-- One value per class. -/
structure PerClass (α : Type) where
  life    : α
  urgent  : α
  welfare : α
  routine : α
deriving DecidableEq, Repr

/-- The value of a class. -/
def PerClass.get {α : Type} (v : PerClass α) : MsgClass → α
  | .life => v.life
  | .urgent => v.urgent
  | .welfare => v.welfare
  | .routine => v.routine

/-- The value of one class replaced. -/
def PerClass.set {α : Type} (v : PerClass α) (c : MsgClass) (x : α) : PerClass α :=
  match c with
  | .life => { v with life := x }
  | .urgent => { v with urgent := x }
  | .welfare => { v with welfare := x }
  | .routine => { v with routine := x }

/-- The four channel faults (4.3). -/
inductive ChannelFault where
  | checkStorm | stuckCarrier | txTimeout | clockLoss
deriving DecidableEq, Repr

/-- Flags and selects of one fault (R57, R58). -/
structure FaultRecord where
  live    : Bool
  held    : Bool
  notify  : Bool
  freeze  : Bool
  restart : Bool
deriving DecidableEq, Repr

/-- The four faults. -/
structure Faults where
  checkStorm   : FaultRecord
  stuckCarrier : FaultRecord
  txTimeout    : FaultRecord
  clockLoss    : FaultRecord
deriving DecidableEq, Repr

/-- The record of a fault. -/
def Faults.get (v : Faults) : ChannelFault → FaultRecord
  | .checkStorm => v.checkStorm
  | .stuckCarrier => v.stuckCarrier
  | .txTimeout => v.txTimeout
  | .clockLoss => v.clockLoss

/-- One fault's record replaced. -/
def Faults.set (v : Faults) (f : ChannelFault) (r : FaultRecord) : Faults :=
  match f with
  | .checkStorm => { v with checkStorm := r }
  | .stuckCarrier => { v with stuckCarrier := r }
  | .txTimeout => { v with txTimeout := r }
  | .clockLoss => { v with clockLoss := r }

/-- Notice kinds, in the order in which ready kinds are emitted (R177). -/
inductive Notice where
  | inboxLife | inbox | delivered | failed | fault | dropped | clash
deriving DecidableEq, Repr

/-- A set of notice kinds (R177). -/
structure NoticeSet where
  inboxLife : Bool
  inbox     : Bool
  delivered : Bool
  failed    : Bool
  fault     : Bool
  dropped   : Bool
  clash     : Bool
deriving DecidableEq, Repr

/-- The empty set. -/
def NoticeSet.none : NoticeSet := ⟨false, false, false, false, false, false, false⟩

/-- Whether a kind is in the set. -/
def NoticeSet.has (v : NoticeSet) : Notice → Bool
  | .inboxLife => v.inboxLife
  | .inbox => v.inbox
  | .delivered => v.delivered
  | .failed => v.failed
  | .fault => v.fault
  | .dropped => v.dropped
  | .clash => v.clash

/-- The set with a kind put in (`true`) or taken out (`false`). -/
def NoticeSet.put (v : NoticeSet) (k : Notice) (b : Bool) : NoticeSet :=
  match k with
  | .inboxLife => { v with inboxLife := b }
  | .inbox => { v with inbox := b }
  | .delivered => { v with delivered := b }
  | .failed => { v with failed := b }
  | .fault => { v with fault := b }
  | .dropped => { v with dropped := b }
  | .clash => { v with clash := b }

/-! ## Pins -/

/-- Input levels that stay between events: DCD (R32) and OHOLD (R169). -/
structure Pins where
  dcd   : Bool
  ohold : Bool
deriving DecidableEq, Repr

/-! ## Modem Port (Chapter 3) -/

/-- Receive assembler (3.2). `passed` is how many bytes of a skipped frame have passed (R40). -/
inductive Assembler where
  | off
  | hunting
  | gathering (buffer : Fin 2)
  | skipping (passed : Nat)
deriving DecidableEq, Repr

/-- A receive frame buffer (R36): the bytes stored after the sync (R37), and the QUAL sample from completion on (R33). -/
inductive RxBuffer where
  | empty
  | filling (bytes : List Byte)
  | full (bytes : List Byte) (qual : Nibble)
  | inHandling (bytes : List Byte) (qual : Nibble)
deriving DecidableEq, Repr

/-- Key state (3.3). PTT is asserted in every state but UNKEYED. `driven` is how many of the eight trailer bits have been driven (R44). -/
inductive KeyState where
  | unkeyed
  | keyup
  | sending
  | trailer (driven : Nat)
deriving DecidableEq, Repr

/-- What an outgoing frame carries, as the frame-sent report names it (R43). -/
inductive TxItem where
  | beacon
  | receipt (id : Identity)
  | traffic (slot : Fin 64) (index : Fin 8)
deriving DecidableEq, Repr

/-- The frame under way: what it carries, its bytes with sync and check, the sender distance in its header, and how many of its bits have been driven (R43). -/
structure TxFrame where
  item     : TxItem
  bytes    : List Byte
  dist     : Nibble
  position : Nat
deriving DecidableEq, Repr

/-- Modem Port. `huntBits` and `huntCount` are the hunting register and how many bits it holds (R35); `forming` holds the bits of the byte being formed, in the order received (R37); `lengthReg` is SKIPPING's own length register (R40). In SENDING, no frame means that the train's last frame is sent and the trailer is to follow (R43). -/
structure ModemPort where
  assembler : Assembler
  huntBits  : BitVec 24
  huntCount : Nat
  forming   : List Bool
  lengthReg : Byte
  buffers   : Vector RxBuffer 2
  fullOrder : List (Fin 2)
  key       : KeyState
  txd       : Bool
  frame     : Option TxFrame
  keyupEnd  : Option Nat
  limitEnd  : Option Nat
  rxWatch   : Option Nat
  txWatch   : Option Nat
deriving DecidableEq, Repr

/-- Table 3-1, first column. The values of the hunting register, the byte being formed and the length register, of which it says nothing, are DESIGN CHOICES (n5). -/
def ModemPort.reset : ModemPort where
  assembler := .off
  huntBits := 0
  huntCount := 0
  forming := []
  lengthReg := 0
  buffers := Vector.replicate 2 .empty
  fullOrder := []
  key := .unkeyed
  txd := true
  frame := none
  keyupEnd := none
  limitEnd := none
  rxWatch := none
  txWatch := none

/-! ## Occupancy and Fault Monitor (Chapter 4) -/

/-- Current window record, and the point in time at which the window ends (R51). -/
structure Window where
  carrierMs  : Nat
  frames     : Nat
  failed     : Nat
  throughout : Bool
  accepted   : Bool
  endsAt     : Nat
deriving DecidableEq, Repr

/-- One record of the history (R54). -/
structure HistoryRecord where
  carrierMs : Nat
  frames    : Nat
  failed    : Nat
deriving DecidableEq, Repr

/-- Occupancy and Fault Monitor. `requests` counts channel restart requests sent and not yet carried out (R63, n16). -/
structure Monitor where
  window   : Option Window
  history  : List HistoryRecord
  u        : Nat
  stuckRun : Nat
  faults   : Faults
  rxLoss   : Bool
  txLoss   : Bool
  requests : Nat
deriving DecidableEq, Repr

/-- A history of zero records (R54). -/
def zeroHistory : List HistoryRecord := List.replicate 16 ⟨0, 0, 0⟩

/-- Table 4-2, first column, with the selects of Table 4-1. -/
def Monitor.reset : Monitor where
  window := none
  history := zeroHistory
  u := 0
  stuckRun := 0
  faults :=
    { checkStorm   := ⟨false, false, true, true, false⟩
      stuckCarrier := ⟨false, false, true, false, false⟩
      txTimeout    := ⟨false, false, true, false, true⟩
      clockLoss    := ⟨false, false, true, true, true⟩ }
  rxLoss := false
  txLoss := false
  requests := 0

/-! ## Frame Handler (Chapter 2) -/

/-- The six event counters (R30). FH's handling state is the buffer IN HANDLING. -/
structure FrameHandler where
  accepted  : BitVec 16
  checkfail : BitVec 16
  malformed : BitVec 16
  truncated : BitVec 16
  overrun   : BitVec 16
  dropped   : BitVec 16
deriving DecidableEq, Repr

/-- All counters 0 (R30). -/
def FrameHandler.reset : FrameHandler := ⟨0, 0, 0, 0, 0, 0⟩

/-! ## Message Store (Chapter 5) -/

/-- States of a slot that holds a message (Table 5-2); FREE is the absence of a record. -/
inductive SlotState where
  | assembling | held | queued | onAir | await | inbox
deriving DecidableEq, Repr

/-- A slot record (Table 5-1). The present set is the set of indices with a block in `blocks`. -/
structure Slot where
  state       : SlotState
  id          : Identity
  dest        : Code
  cls         : MsgClass
  budget      : Nibble
  used        : Nibble
  bodyLength  : Nat
  count       : Nat
  blocks      : Vector (Option (Fin 384)) 8
  originated  : Bool
  relay       : Bool
  deliverHere : Bool
  unread      : Bool
  answered    : Bool
  heard       : List Code
  retries     : Nat
  resumeAt    : Fin 8
  deadline    : Option Nat
  sentDist    : Option Nibble
  q           : Nibble
  completion  : Nat
deriving DecidableEq, Repr

/-- Message Store: slots (`none` is FREE), segment blocks, free block list. The model's own (n31): the moment at which a POST last evicted slots that could have stood down, and the records of such slots evicted at that moment (Table 8-6). -/
structure Store where
  slots     : Vector (Option Slot) 64
  blocks    : Vector (Vector Byte 64) 384
  free      : List (Fin 384)
  evictedAt : Nat
  evicted   : List Slot
deriving DecidableEq, Repr

/-- Table 5-6, first column. The blocks' bytes are a DESIGN CHOICE (n6). -/
def Store.reset : Store where
  slots := Vector.replicate 64 none
  blocks := Vector.replicate 384 (Vector.replicate 64 0)
  free := List.finRange 384
  evictedAt := 0
  evicted := []

/-! ## Identity Table (Chapter 6) -/

/-- Dispositions (Table 6-2). -/
inductive Disposition where
  | seen | stored | relayed | settled | delivered | failed | dropped
deriving DecidableEq, Repr

/-- A valid entry (Table 6-1). An invalid entry is the absence of one. -/
structure Entry where
  id             : Identity
  disposition    : Disposition
  link           : Option (Fin 64)
  age            : Nat
  fresh          : Bool
  originated     : Bool
  receiptTime    : Option Nat
  receiptRelayed : Bool
deriving DecidableEq, Repr

/-- A bucket: primary entries A and B and the chain head (R90). -/
structure Bucket where
  primA : Option Entry
  primB : Option Entry
  head  : Option (Fin 256)
deriving DecidableEq, Repr

/-- An overflow entry and its next link (R90). -/
structure Overflow where
  entry : Option Entry
  next  : Option (Fin 256)
deriving DecidableEq, Repr

/-- Identity Table. `sweep` is the next bucket of the sweep under way, 512 when all have been visited (R100). -/
structure IdTable where
  buckets  : Vector Bucket 512
  overflow : Vector Overflow 256
  free     : List (Fin 256)
  minuteAt : Option Nat
  sweep    : Option Nat
  waiting  : Bool
deriving DecidableEq, Repr

/-- Table 6-3, first column. -/
def IdTable.reset : IdTable where
  buckets := Vector.replicate 512 ⟨none, none, none⟩
  overflow := Vector.replicate 256 ⟨none, none⟩
  free := List.finRange 256
  minuteAt := none
  sweep := none
  waiting := false

/-! ## Distance Table (Chapter 7) -/

/-- Neighbour tier and quality, present together (Table 7-1). -/
structure Direct where
  tier : Nibble
  q    : Nibble
deriving DecidableEq, Repr

/-- A single entry (Table 7-1). -/
structure Single where
  code   : Code
  dist   : Nibble
  via    : Code
  direct : Option Direct
  age    : Nat
  pinned : Bool
  fresh  : Bool
deriving DecidableEq, Repr

/-- A set span entry (R114). -/
structure Span where
  base : Code
  k    : Nat
  dist : Nibble
deriving DecidableEq, Repr

/-- Distance Table: single entries most recent first, spans by index, own tier, minute event, and the aging pass (its entries still to visit, by code). -/
structure DistTable where
  singles  : List Single
  spans    : Vector (Option Span) 4
  ownTier  : Nibble
  minuteAt : Option Nat
  pass     : Option (List Code)
  waiting  : Bool
deriving DecidableEq, Repr

/-- Table 7-3, first column. -/
def DistTable.reset : DistTable where
  singles := []
  spans := Vector.replicate 4 none
  ownTier := 15
  minuteAt := none
  pass := none
  waiting := false

/-! ## Access Controller (Chapter 9) -/

/-- Access states (9.2). -/
inductive Access where
  | idle | barred | deferring | counting | keyed
deriving DecidableEq, Repr

/-- Access Controller. `delayEnd` and `drawClass` belong to a running access delay. `restart` is the model's own (n36): the moment of the last channel restart, with the generator as it left it. -/
structure AccessController where
  queues      : PerClass (List (Fin 64))
  access      : Access
  delayEnd    : Option Nat
  drawClass   : Option MsgClass
  generator   : Option (BitVec 16)
  identDue    : Bool
  beaconDue   : Bool
  identTimer  : Option Nat
  beaconTimer : Option Nat
  quiet       : Bool
  listenEnd   : Option Nat
  sent        : Nat
  restart     : Option (Nat × Option (BitVec 16))
deriving DecidableEq, Repr

/-- Table 9-1, first column. -/
def AccessController.reset : AccessController where
  queues := ⟨[], [], [], []⟩
  access := .idle
  delayEnd := none
  drawClass := none
  generator := none
  identDue := true
  beaconDue := false
  identTimer := none
  beaconTimer := none
  quiet := false
  listenEnd := none
  sent := 0
  restart := none

/-! ## Delivery Unit (Chapter 10) -/

/-- State of a pool record, with the deadline or the ready time it holds (Table 10-2). -/
inductive ReceiptState where
  | waiting (deadline : Nat)
  | ready (since : Nat)
deriving DecidableEq, Repr

/-- A Receipt Pool record (Table 10-2). `named`: named for a frame under way (R143). -/
structure Receipt where
  id        : Identity
  cls       : MsgClass
  deliverer : Code
  budget    : Nibble
  used      : Nibble
  state     : ReceiptState
  heard     : List Code
  named     : Bool
deriving DecidableEq, Repr

/-- Outcomes (R165); DELIVERED alone carries the deliverer. -/
inductive OutcomeKind where
  | delivered (deliverer : Code)
  | sent
  | failed
deriving DecidableEq, Repr

/-- An Outcome List record (R165). -/
structure OutcomeRecord where
  id   : Identity
  kind : OutcomeKind
deriving DecidableEq, Repr

/-- Delivery Unit. -/
structure DeliveryUnit where
  serial   : Serial
  pool     : List Receipt
  outcomes : List OutcomeRecord
  fetchRef : Option (Fin 64)
deriving DecidableEq, Repr

/-- Table 10-3, first column. -/
def DeliveryUnit.reset : DeliveryUnit := ⟨1, [], [], none⟩

/-! ## Operator Line (Chapter 11) -/

/-- Operating phase (R174). -/
inductive Phase where
  | setup | live
deriving DecidableEq, Repr

/-- The numeric settings (Table 11-3), in its units. -/
structure Settings where
  slot      : Nat
  keyup     : Nat
  train     : Nat
  txlimit   : Nat
  window    : Nat
  echo      : Nat
  retry     : Nat
  ident     : Nat
  beacon    : Nat
  idlife    : Nat
  assembly  : Nat
  routelife : Nat
  hops      : Nat
deriving DecidableEq, Repr

/-- Reset values of Table 11-3. -/
def Settings.reset : Settings := ⟨40, 150, 10, 20, 500, 20, 3, 10, 15, 60, 60, 20, 6⟩

/-- Settings of one class (R7). -/
structure ClassSetting where
  preempt    : Bool
  redundancy : Nat
deriving DecidableEq, Repr

/-- Reset values of Table 1-4. -/
def classesReset : PerClass ClassSetting := ⟨⟨true, 2⟩, ⟨true, 1⟩, ⟨false, 1⟩, ⟨false, 1⟩⟩

/-- A line in the input buffer: stored characters, whether its carriage return is stored, characters received, marks (R168). -/
structure InLine where
  text     : Text
  crStored : Bool
  received : Nat
  overrun  : Bool
  tooLong  : Bool
deriving DecidableEq, Repr

/-- A line of which nothing has been received. -/
def InLine.empty : InLine := ⟨[], false, 0, false, false⟩

/-- A body under collection (R11, R172): the POST's words, the stored body, the length of the joined body, the lines so far, and the marks that decide refusals. -/
structure Collection where
  args    : List Text
  body    : Text
  total   : Nat
  lines   : Nat
  overrun : Bool
  tooLong : Bool
  badChar : Bool
deriving DecidableEq, Repr

/-- The self-tests (R173). -/
inductive SelfTest where
  | loopback | frames | identities | store
deriving DecidableEq, Repr

/-- A composed line: its text, and whether it reports a self-test, which is no answer that the next command line waits for (R170). -/
structure OutLine where
  text   : Text
  ofTest : Bool
deriving DecidableEq, Repr

/-- Operator Line. `waiting` holds the composed lines without room yet; `blockOpen`: a block has been started whose closing line is among them (R177); `unmasking`: the kind that the UNMASK response among them unmasks (R177); `fetchLeft`: characters left to send up to the end of a FETCH block (R162). -/
structure OperatorLine where
  phase     : Phase
  ownCode   : Option Code
  callsign  : Option Text
  centre    : Bool
  settings  : Settings
  classes   : PerClass ClassSetting
  rate      : BitVec 2
  lines     : List InLine
  typing    : InLine
  ordy      : Bool
  output    : Text
  sending   : Bool
  waiting   : List OutLine
  blockOpen : Bool
  unmasking : Option Notice
  fetchLeft : Option Nat
  post      : Option Collection
  notices   : NoticeSet
  masked    : NoticeSet
  selfTest  : Option SelfTest
deriving DecidableEq, Repr

/-- The line "+READY" with its CR LF (R178). -/
def readyLine : Text := [0x2B, 0x52, 0x45, 0x41, 0x44, 0x59, 0x0D, 0x0A]

/-- Table 11-5, with ORATE 00 (DESIGN CHOICE, n5) and the first character of "+READY" begun. -/
def OperatorLine.reset : OperatorLine where
  phase := .setup
  ownCode := none
  callsign := none
  centre := false
  settings := Settings.reset
  classes := classesReset
  rate := 0
  lines := []
  typing := InLine.empty
  ordy := true
  output := readyLine
  sending := true
  waiting := []
  blockOpen := false
  unmasking := none
  fetchLeft := none
  post := none
  notices := NoticeSet.none
  masked := NoticeSet.none
  selfTest := none

/-! ## The whole part -/

/-- The part: the time in milliseconds, the pins, the ten blocks (RCU keeps nothing of its own, R135) and the queue of commands, first in, first out. -/
structure State where
  now     : Nat
  pins    : Pins
  mp      : ModemPort
  ofm     : Monitor
  fh      : FrameHandler
  ms      : Store
  idt     : IdTable
  dt      : DistTable
  ac      : AccessController
  du      : DeliveryUnit
  ol      : OperatorLine
  pending : List Instr
deriving DecidableEq, Repr

/-- The part right after reset. The time and the input levels are DESIGN CHOICES (n5, n21). -/
def State.reset : State where
  now := 0
  pins := ⟨false, false⟩
  mp := ModemPort.reset
  ofm := Monitor.reset
  fh := FrameHandler.reset
  ms := Store.reset
  idt := IdTable.reset
  dt := DistTable.reset
  ac := AccessController.reset
  du := DeliveryUnit.reset
  ol := OperatorLine.reset
  pending := []

/-! ## One updater per block -/

/-- The state with another Modem Port. -/
def State.withMp (s : State) (x : ModemPort) : State := { s with mp := x }
/-- The state with another Monitor. -/
def State.withOfm (s : State) (x : Monitor) : State := { s with ofm := x }
/-- The state with other counters. -/
def State.withFh (s : State) (x : FrameHandler) : State := { s with fh := x }
/-- The state with another Message Store. -/
def State.withMs (s : State) (x : Store) : State := { s with ms := x }
/-- The state with another Identity Table. -/
def State.withIdt (s : State) (x : IdTable) : State := { s with idt := x }
/-- The state with another Distance Table. -/
def State.withDt (s : State) (x : DistTable) : State := { s with dt := x }
/-- The state with another Access Controller. -/
def State.withAc (s : State) (x : AccessController) : State := { s with ac := x }
/-- The state with another Delivery Unit. -/
def State.withDu (s : State) (x : DeliveryUnit) : State := { s with du := x }
/-- The state with another Operator Line. -/
def State.withOl (s : State) (x : OperatorLine) : State := { s with ol := x }
/-- The state with other pins. -/
def State.withPins (s : State) (x : Pins) : State := { s with pins := x }
/-- The state at another time. -/
def State.withNow (s : State) (t : Nat) : State := { s with now := t }
/-- The state with another queue. -/
def State.withPending (s : State) (q : List Instr) : State := { s with pending := q }

end Sys2Proof.Machine
end

