-- ==== Sys2Proof/Machine/Text.lean ====
section
/-! DEFINITION. Characters, words, numbers and names of the operator line (11.2, Conventions). -/

namespace Sys2Proof.Machine

/-- The bytes of a word written in the model's text. -/
def txt (s : String) : Text := s.toList.map fun c => BitVec.ofNat 8 c.toNat

/-- A letter as a capital (R170: words are taken in either case). -/
def upper (c : Byte) : Byte := if 0x61 ≤ c.toNat && c.toNat ≤ 0x7A then c - 0x20 else c

/-- A word in capitals. -/
def upperText (w : Text) : Text := w.map upper

/-- A text cut at each `sep`. -/
def splitOn (sep : Byte) : Text → List Text
  | [] => [[]]
  | c :: r =>
    if c = sep then [] :: splitOn sep r
    else
      match splitOn sep r with
      | [] => [[c]]
      | w :: ws => (c :: w) :: ws

/-- The words of a line, separated by one or more spaces (R170). Spaces before the first word and after the last are dropped (the model's choice, n18). -/
def words (t : Text) : List Text := (splitOn 0x20 t).filter fun w => !w.isEmpty

/-- Words joined by single spaces. -/
def unwords : List Text → Text
  | [] => []
  | [w] => w
  | w :: ws => w ++ 0x20 :: unwords ws

/-- Decimal digits of `n`, with `fuel` digits at most. -/
def digits : Nat → Nat → Text
  | 0, _ => []
  | fuel + 1, n => if n < 10 then [BitVec.ofNat 8 (0x30 + n)] else digits fuel (n / 10) ++ [BitVec.ofNat 8 (0x30 + n % 10)]

/-- A number in decimal (Conventions, Numbers). -/
def decimal (n : Nat) : Text := digits 20 n

/-- Whether a character is a decimal digit. -/
def isDigit (c : Byte) : Bool := 0x30 ≤ c.toNat && c.toNat ≤ 0x39

/-- A number of 1 to 10 decimal digits; any other form is none (R170). -/
def parseNumber (w : Text) : Option Nat :=
  if 1 ≤ w.length ∧ w.length ≤ 10 ∧ w.all isDigit = true then some (w.foldl (fun n c => n * 10 + (c.toNat - 0x30)) 0) else none

/-- An identity written origin/serial (R4). -/
def identityText (i : Identity) : Text := decimal i.origin.toNat ++ 0x2F :: decimal i.serial.toNat

/-- The two numbers of a word written origin/serial. -/
def parsePair (w : Text) : Option (Nat × Nat) :=
  match splitOn 0x2F w with
  | [a, b] =>
    match parseNumber a, parseNumber b with
    | some m, some n => some (m, n)
    | _, _ => none
  | _ => none

/-- Class words (Table 1-3). -/
def MsgClass.word : MsgClass → Text
  | .life => txt "LIFE"
  | .urgent => txt "URGENT"
  | .welfare => txt "WELFARE"
  | .routine => txt "ROUTINE"

/-- The classes, highest first. -/
def classes : List MsgClass := [.life, .urgent, .welfare, .routine]

/-- Class number (Table 1-3). -/
def MsgClass.num : MsgClass → Nat
  | .life => 0
  | .urgent => 1
  | .welfare => 2
  | .routine => 3

/-- The class of the two-bit class field (R6). -/
def MsgClass.ofBits (b : BitVec 2) : MsgClass :=
  if b = 0 then .life else if b = 1 then .urgent else if b = 2 then .welfare else .routine

/-- The class that a word names, in either case (R6). -/
def parseClass (w : Text) : Option MsgClass := classes.find? fun c => c.word == upperText w

/-- Fault names (4.3). -/
def ChannelFault.word : ChannelFault → Text
  | .checkStorm => txt "CHECK-STORM"
  | .stuckCarrier => txt "STUCK-CARRIER"
  | .txTimeout => txt "TX-TIMEOUT"
  | .clockLoss => txt "CLOCK-LOSS"

/-- The four faults in the order of Table 4-1. -/
def channelFaults : List ChannelFault := [.checkStorm, .stuckCarrier, .txTimeout, .clockLoss]

/-- The fault that a word names (R58). -/
def parseFault (w : Text) : Option ChannelFault := channelFaults.find? fun f => f.word == upperText w

/-- Notice kinds as written (R177). -/
def Notice.word : Notice → Text
  | .inboxLife => txt "INBOX-LIFE"
  | .inbox => txt "INBOX"
  | .delivered => txt "DELIVERED"
  | .failed => txt "FAILED"
  | .fault => txt "FAULT"
  | .dropped => txt "DROPPED"
  | .clash => txt "CLASH"

/-- The notice kinds in order of emission (R177). -/
def noticeKinds : List Notice := [.inboxLife, .inbox, .delivered, .failed, .fault, .dropped, .clash]

/-- The notice kind that a word names (R177). -/
def parseNotice (w : Text) : Option Notice := noticeKinds.find? fun k => k.word == upperText w

/-- The kinds of a set, or NONE (R177). They are listed in the order in which R177 has kinds emitted: it gives no order for listing them, so this is the model's choice (n8). -/
def NoticeSet.words (v : NoticeSet) : List Text :=
  let l := (noticeKinds.filter v.has).map Notice.word
  if l.isEmpty then [txt "NONE"] else l

/-- ON or OFF. -/
def onOff (b : Bool) : Text := if b then txt "ON" else txt "OFF"

/-- The switch that a word names (R3, R7). -/
def parseSwitch (w : Text) : Option Bool :=
  if upperText w == txt "ON" then some true else if upperText w == txt "OFF" then some false else none

/-- Slot states as written (Table 5-2). -/
def SlotState.word : SlotState → Text
  | .assembling => txt "ASSEMBLING"
  | .held => txt "HELD"
  | .queued => txt "QUEUED"
  | .onAir => txt "ON-AIR"
  | .await => txt "AWAIT"
  | .inbox => txt "INBOX"

/-- Access states as written (9.2). -/
def Access.word : Access → Text
  | .idle => txt "IDLE"
  | .barred => txt "BARRED"
  | .deferring => txt "DEFERRING"
  | .counting => txt "COUNTING"
  | .keyed => txt "KEYED"

/-- The word CLAMPED when a value was changed (R171). -/
def clampedWord (b : Bool) : List Text := if b then [txt "CLAMPED"] else []

/-- Refusal codes (Table 11-2). -/
inductive RefusalCode where
  | syntaxCode | stateCode | noSuch | full | busy | length | overrun | incomplete
deriving DecidableEq, Repr

/-- A refusal line, "-" and its code (R170). -/
def RefusalCode.line : RefusalCode → Text
  | .syntaxCode => txt "-SYNTAX"
  | .stateCode => txt "-STATE"
  | .noSuch => txt "-NOSUCH"
  | .full => txt "-FULL"
  | .busy => txt "-BUSY"
  | .length => txt "-LENGTH"
  | .overrun => txt "-OVERRUN"
  | .incomplete => txt "-INCOMPLETE"

end Sys2Proof.Machine
end

