-- ==== Sys2Proof/Machine/Operands.lean ====
section
/-! DEFINITION. The operand forms of the command lines: numbers with clamping and steps, codes, switches, destinations, identities (R1, R2, R7, R58, R114, R161, R171). `none` is a form refused with SYNTAX. -/

namespace Sys2Proof.Machine

/-- A value raised or lowered to the nearer limit (R171, step 1). -/
def clamp (lo hi v : Nat) : Nat := max lo (min hi v)

/-- A value rounded down to a step (R171, step 2). -/
def roundDown (step v : Nat) : Nat := v - v % step

/-- A single number. -/
def oneNumber : List Text → Option Nat
  | [w] => parseNumber w
  | _ => none

/-- No argument at all. -/
def noArgs : List Text → Option Unit
  | [] => some ()
  | _ => none

/-- An individual station code 1-4093 (Table 1-2). -/
def stationCode (n : Nat) : Option Code := if 1 ≤ n ∧ n ≤ 4093 then some (BitVec.ofNat 12 n) else none

/-- The code of CODE, PIN and UNPIN (R2, R112). -/
def codeArg (args : List Text) : Option Code := (oneNumber args).bind stationCode

/-- A serial 1-65535 (R158). -/
def serialNumber (n : Nat) : Option Serial := if 1 ≤ n ∧ n ≤ 65535 then some (BitVec.ofNat 16 n) else none

/-- The serial of CANCEL (R158). -/
def serialArg (args : List Text) : Option Serial := (oneNumber args).bind serialNumber

/-- A character of a callsign as stored: a letter as a capital, a digit, or "/" (R2). -/
def callChar (c : Byte) : Option Byte :=
  let u := upper c
  if (0x41 ≤ u.toNat && u.toNat ≤ 0x5A) || isDigit u || u == 0x2F then some u else none

/-- The text of CALL: 3-10 characters of callsign (R2). -/
def callArg : List Text → Option Text
  | [w] => if 3 ≤ w.length ∧ w.length ≤ 10 then w.mapM callChar else none
  | _ => none

/-- ON or OFF (R3). -/
def switchArg : List Text → Option Bool
  | [w] => parseSwitch w
  | _ => none

/-- The settings of Table 11-3. -/
inductive SettingName where
  | slot | keyup | train | txlimit | window | echo | retry | ident | beacon | idlife | assembly | routelife | hops
deriving DecidableEq, Repr

/-- A setting's name as written (Table 11-3). -/
def SettingName.word : SettingName → Text
  | .slot => txt "SLOT"
  | .keyup => txt "KEYUP"
  | .train => txt "TRAIN"
  | .txlimit => txt "TXLIMIT"
  | .window => txt "WINDOW"
  | .echo => txt "ECHO"
  | .retry => txt "RETRY"
  | .ident => txt "IDENT"
  | .beacon => txt "BEACON"
  | .idlife => txt "IDLIFE"
  | .assembly => txt "ASSEMBLY"
  | .routelife => txt "ROUTELIFE"
  | .hops => txt "HOPS"

/-- The settings in the order of Table 11-3. -/
def settingNames : List SettingName :=
  [.slot, .keyup, .train, .txlimit, .window, .echo, .retry, .ident, .beacon, .idlife, .assembly, .routelife, .hops]

/-- The setting that a word names, in either case (R170). -/
def parseSetting (w : Text) : Option SettingName := settingNames.find? fun n => n.word == upperText w

/-- Lower limit, upper limit and step (Table 11-3). -/
def SettingName.range : SettingName → Nat × Nat × Nat
  | .slot => (10, 500, 10)
  | .keyup => (10, 1000, 10)
  | .train => (2, 16, 1)
  | .txlimit => (5, 60, 1)
  | .window => (100, 2000, 100)
  | .echo => (5, 120, 1)
  | .retry => (0, 7, 1)
  | .ident => (1, 10, 1)
  | .beacon => (1, 60, 1)
  | .idlife => (10, 240, 1)
  | .assembly => (10, 300, 1)
  | .routelife => (2, 120, 1)
  | .hops => (1, 15, 1)

/-- The value taken for a setting (R171); BEACON takes 0 as 0. -/
def SettingName.take (n : SettingName) (v : Nat) : Nat :=
  if n = .beacon ∧ v = 0 then 0 else roundDown n.range.2.2 (clamp n.range.1 n.range.2.1 v)

/-- The value a setting holds. -/
def Settings.get (s : Settings) : SettingName → Nat
  | .slot => s.slot
  | .keyup => s.keyup
  | .train => s.train
  | .txlimit => s.txlimit
  | .window => s.window
  | .echo => s.echo
  | .retry => s.retry
  | .ident => s.ident
  | .beacon => s.beacon
  | .idlife => s.idlife
  | .assembly => s.assembly
  | .routelife => s.routelife
  | .hops => s.hops

/-- One setting replaced. -/
def Settings.set (s : Settings) (n : SettingName) (v : Nat) : Settings :=
  match n with
  | .slot => { s with slot := v }
  | .keyup => { s with keyup := v }
  | .train => { s with train := v }
  | .txlimit => { s with txlimit := v }
  | .window => { s with window := v }
  | .echo => { s with echo := v }
  | .retry => { s with retry := v }
  | .ident => { s with ident := v }
  | .beacon => { s with beacon := v }
  | .idlife => { s with idlife := v }
  | .assembly => { s with assembly := v }
  | .routelife => { s with routelife := v }
  | .hops => { s with hops := v }

/-- The arguments of TIMING (R171). -/
def timingArgs : List Text → Option (SettingName × Nat)
  | [w, v] =>
    match parseSetting w, parseNumber v with
    | some n, some k => some (n, k)
    | _, _ => none
  | _ => none

/-- The two optional parts of CLASS, in either order, each at most once (Table 11-1). PREEMPT and REDUNDANCY are taken in either case: the model's reading (n18). -/
def classParts (p : Option Bool) (r : Option Nat) : List Text → Option (Option Bool × Option Nat)
  | [] => some (p, r)
  | k :: v :: rest =>
    if upperText k == txt "PREEMPT" && p.isNone then
      match parseSwitch v with
      | some b => classParts (some b) r rest
      | none => none
    else if upperText k == txt "REDUNDANCY" && r.isNone then
      match parseNumber v with
      | some n => classParts p (some n) rest
      | none => none
    else none
  | [_] => none

/-- The arguments of CLASS (R7). -/
def classArgs : List Text → Option (MsgClass × Option Bool × Option Nat)
  | w :: rest =>
    match parseClass w, classParts none none rest with
    | some c, some pr => some (c, pr)
    | _, _ => none
  | [] => none

/-- The select words of FAULTSEL. They are taken in either case, and a word given twice is not counted as malformed: the model's reading (n18). -/
def selectWords (n f r : Bool) : List Text → Option (Bool × Bool × Bool)
  | [] => some (n, f, r)
  | w :: rest =>
    if upperText w == txt "NOTIFY" then selectWords true f r rest
    else if upperText w == txt "FREEZE" then selectWords n true r rest
    else if upperText w == txt "RESTART" then selectWords n f true rest
    else none

/-- The arguments of FAULTSEL (R58). -/
def faultselArgs : List Text → Option (ChannelFault × Bool × Bool × Bool)
  | w :: rest =>
    match parseFault w, selectWords false false false rest with
    | some f, some sel => some (f, sel)
    | _, _ => none
  | [] => none

/-- The low `k` bits of a code cleared (R114). -/
def clearLow (k : Nat) (x : Code) : Code := (x >>> k) <<< k

/-- The arguments of SPAN: index, base as given, k and distance as given (R114). -/
def spanArgs : List Text → Option (Fin 4 × Code × Nat × Nat)
  | [i, b, k, d] =>
    match parseNumber i, parseNumber b, parseNumber k, parseNumber d with
    | some i, some b, some k, some d =>
      if h : i < 4 then if b ≤ 4095 then some (⟨i, h⟩, BitVec.ofNat 12 b, k, d) else none else none
    | _, _, _, _ => none
  | _ => none

/-- The argument of MASK and UNMASK (R177). -/
def noticeArg : List Text → Option Notice
  | [w] => parseNotice w
  | _ => none

/-- The identity that FETCH may name (R161): none refuses, `some none` is FETCH without argument. -/
def fetchArg : List Text → Option (Option Identity)
  | [] => some none
  | [w] =>
    match parsePair w with
    | some (o, n) =>
      match stationCode o, serialNumber n with
      | some c, some v => some (some ⟨c, v⟩)
      | _, _ => none
    | none => none
  | _ => none

/-- The destination of POST: a number 1-4095 other than the own code, CENTRE or ALL (R1). These two are taken in either case: the model's reading (n18). -/
def destArg (own : Option Code) (w : Text) : Option Code :=
  if upperText w == txt "CENTRE" then some Config.anyCentre
  else if upperText w == txt "ALL" then some Config.allStations
  else
    match parseNumber w with
    | some n => if 1 ≤ n ∧ n ≤ 4095 ∧ own ≠ some (BitVec.ofNat 12 n) then some (BitVec.ofNat 12 n) else none
    | none => none

/-- The arguments of POST: destination, class, hops as given (Table 11-1). -/
def postArgs (own : Option Code) : List Text → Option (Code × MsgClass × Option Nat)
  | [d, c] =>
    match destArg own d, parseClass c with
    | some d, some c => some (d, c, none)
    | _, _ => none
  | [d, c, h] =>
    match destArg own d, parseClass c, parseNumber h with
    | some d, some c, some h => some (d, c, some h)
    | _, _, _ => none
  | _ => none

end Sys2Proof.Machine
end

