-- ==== Sys2Proof/Machine/Distance.lean ====
section
/-! DEFINITION. The Distance Table: learning, recency, aging, pins, spans, answers and own tier (Chapter 7). -/

namespace Sys2Proof.Machine

/-- The single entry of a code. -/
def DistTable.single (t : DistTable) (c : Code) : Option Single := t.singles.find? fun e => e.code == c

/-- The entries without that of a code. -/
def without (c : Code) (l : List Single) : List Single := l.filter fun e => e.code != c

/-- The pinned count (R105). -/
def DistTable.pinnedCount (t : DistTable) : Nat := (t.singles.filter Single.pinned).length

/-- A neighbour tier plus one, where the entry has one below 15 (R116). -/
def tierThrough (e : Single) : Option Nat :=
  match e.direct with
  | some d => if d.tier.toNat < 15 then some (d.tier.toNat + 1) else none
  | none => none

/-- Own tier of a station that is or is not a centre (R116). -/
def computeTier (centre : Bool) (l : List Single) : Nibble :=
  if centre then 0
  else
    match (l.filterMap tierThrough).min? with
    | some n => BitVec.ofNat 4 (min 14 n)
    | none => 15

/-- Own tier recomputed (R116). -/
def DistTable.retier (centre : Bool) (t : DistTable) : DistTable := { t with ownTier := computeTier centre t.singles }

/-- The entries of an aging pass that are still to be visited, less those that have left the list `l` (R111). -/
def stillPresent (l : List Single) (pass : Option (List Code)) : Option (List Code) :=
  pass.map fun cs => cs.filter fun c => l.any fun e => e.code == c

/-- The first unpinned entry of a list removed. -/
def dropFirstUnpinned : List Single → List Single
  | [] => []
  | e :: r => if e.pinned then e :: dropFirstUnpinned r else r

/-- The list with room for a new entry: at 48 the least recent unpinned entry is removed (R109). -/
def makeRoom (l : List Single) : List Single :=
  if l.length < Config.singles then l else (dropFirstUnpinned l.reverse).reverse

/-- The replacement test (R108): shorter or equal, same via, or old enough. -/
def replaces (routelife : Nat) (old new : Single) : Bool :=
  decide (new.dist.toNat ≤ old.dist.toNat) || new.via == old.via || decide (routelife / 2 ≤ old.age)

/-- A new entry joins at the front, after room has been made; a removed entry leaves the pass under way, and the new one is not in it (R109, R111). -/
def DistTable.join (new : Single) (t : DistTable) : DistTable :=
  { t with
    singles := { new with fresh := t.pass.isSome } :: makeRoom t.singles
    pass := stillPresent (makeRoom t.singles) t.pass }

/-- A learning reaches the table (R106 to R110): `new` carries the values taught. -/
def DistTable.learn (centre : Bool) (routelife : Nat) (new : Single) (t : DistTable) : DistTable :=
  match t.single new.code with
  | none => (t.join new).retier centre
  | some old =>
    if replaces routelife old new then
      ({ t with singles := { new with pinned := old.pinned, fresh := t.pass.isSome } :: without new.code t.singles }).retier centre
    else t

/-- What a frame teaches of its sender (R106). -/
def senderLesson (n : Code) (tier q : Nibble) : Single := ⟨n, 1, n, some ⟨tier, q⟩, 0, false, false⟩

/-- What a frame teaches of its origin or deliverer, `h` hops behind the sender (R107). -/
def farLesson (o n : Code) (h : Nibble) : Single := ⟨o, h + 1, n, none, 0, false, false⟩

/-- Whether R107 applies: the station is another than the sender and the own, and h + 1 is below 15. -/
def farApplies (own : Option Code) (o n : Code) (h : Nibble) : Bool :=
  o != n && decide (own ≠ some o) && decide (h.toNat + 1 < 15)

/-- A code is covered by a span (R114). -/
def Span.covers (sp : Span) (x : Code) : Bool := clearLow sp.k x == sp.base

/-- The first set span, in index order, that covers a code (R115). -/
def DistTable.spanOf (t : DistTable) (x : Code) : Option Span := (t.spans.toList.filterMap id).find? fun sp => sp.covers x

/-- Own distance to a station code, and the table with the answering single entry at the front (R115). -/
def DistTable.query (own : Option Code) (t : DistTable) (x : Code) : Nibble × DistTable :=
  if own = some x then (0, t)
  else if x = Config.anyCentre then (t.ownTier, t)
  else if x = Config.allStations then (15, t)
  else
    match t.single x with
    | some e => (e.dist, { t with singles := e :: without x t.singles })
    | none =>
      match t.spanOf x with
      | some sp => (sp.dist, t)
      | none => (15, t)

/-- PIN and UNPIN write the pinned field in place (R112). -/
def DistTable.setPinned (t : DistTable) (c : Code) (b : Bool) : DistTable :=
  { t with singles := t.singles.map fun e => if e.code = c then { e with pinned := b } else e }

/-- PURGE: every unpinned single entry is removed, from a pass under way as well (R111, R113). -/
def DistTable.purge (centre : Bool) (t : DistTable) : DistTable :=
  ({ t with
    singles := t.singles.filter Single.pinned
    pass := stillPresent (t.singles.filter Single.pinned) t.pass }).retier centre

/-- A code put into an ascending list. -/
def insertAscending (c : Code) : List Code → List Code
  | [] => [c]
  | d :: r => if c.toNat ≤ d.toNat then c :: d :: r else d :: insertAscending c r

/-- The codes of the single entries in ascending order (R111). -/
def DistTable.codes (t : DistTable) : List Code := (t.singles.map Single.code).foldr insertAscending []

/-- One entry aged, if it is the one of `c` and not fresh (R111, steps 1 and 2). -/
def ageSingle (c : Code) (e : Single) : Single :=
  if e.code = c ∧ e.fresh = false then { e with age := min 255 (e.age + 1) } else e

/-- Whether the pass keeps an entry of `c` that it has aged: pinned, fresh, or below ROUTELIFE (R111, step 3). -/
def keepsAged (routelife : Nat) (c : Code) (e : Single) : Bool :=
  e.code != c || e.fresh || e.pinned || decide (e.age < routelife)

/-- The pass visits the entry of `c` (R111). Own tier is recomputed after a removal (R116). -/
def DistTable.visit (centre : Bool) (routelife : Nat) (c : Code) (t : DistTable) : DistTable :=
  let aged := t.singles.map (ageSingle c)
  let kept := aged.filter (keepsAged routelife c)
  if kept.length < aged.length then ({ t with singles := kept } : DistTable).retier centre else { t with singles := aged }

/-- Every fresh mark set to no (R111). -/
def DistTable.clearFresh (t : DistTable) : DistTable :=
  { t with singles := t.singles.map fun e => { e with fresh := false } }

end Sys2Proof.Machine
end

