-- ==== Sys2Proof/Machine/Ops.lean ====
section
/-! DEFINITION. Operations that several blocks share: the event counters, notices, and the views PTT and phase. -/

namespace Sys2Proof.Machine

/-- A counter that stays at 65535 (R30). -/
def satInc (x : BitVec 16) : BitVec 16 := if x = 0xFFFF then x else x + 1

/-- PTT: asserted in every key state but UNKEYED (3.3). -/
def State.ptt (s : State) : Bool := decide (s.mp.key ≠ .unkeyed)

/-- The phase is LIVE. -/
def State.isLive (s : State) : Bool := decide (s.ol.phase = .live)

/-- One event counted (R30): the counter named by `f` is replaced. -/
def countMalformed (s : State) : State := s.withFh { s.fh with malformed := satInc s.fh.malformed }
/-- CHECKFAIL counts one (R23). -/
def countCheckfail (s : State) : State := s.withFh { s.fh with checkfail := satInc s.fh.checkfail }
/-- ACCEPTED counts one (R26). -/
def countAccepted (s : State) : State := s.withFh { s.fh with accepted := satInc s.fh.accepted }
/-- TRUNCATED counts one (R39). -/
def countTruncated (s : State) : State := s.withFh { s.fh with truncated := satInc s.fh.truncated }
/-- OVERRUN counts one (R40). -/
def countOverrun (s : State) : State := s.withFh { s.fh with overrun := satInc s.fh.overrun }
/-- DROPPED counts one (R30). -/
def countDropped (s : State) : State := s.withFh { s.fh with dropped := satInc s.fh.dropped }

/-- A block raises a notice kind: it joins the pending set (R177). -/
def raiseNotice (k : Notice) (s : State) : State := s.withOl { s.ol with notices := s.ol.notices.put k true }

/-- A message or receipt cannot be kept: DROPPED counts one and the DROPPED notice is raised (R30). -/
def reportDropped (s : State) : State := raiseNotice .dropped (countDropped s)

end Sys2Proof.Machine
end

