-- ==== Sys2Proof/Machine/Flags.lean ====
section
/-! DEFINITION. The Monitor's figures and flags: tallies, the occupancy figure u and its freezing, the live and held flags of the four faults (Chapter 4). -/

namespace Sys2Proof.Machine

/-- u is frozen: a held flag is set whose fault has FREEZE selected (R56). -/
def Faults.frozen (v : Faults) : Bool := channelFaults.any fun f => (v.get f).held && (v.get f).freeze

/-- u is frozen (R56). -/
def State.frozen (s : State) : Bool := s.ofm.faults.frozen

/-- The occupancy figure of a history (R55). -/
def occupancy (window : Nat) (h : List HistoryRecord) : Nat :=
  100 * (h.map HistoryRecord.carrierMs).sum / (16 * window)

/-- A tally that saturates at 255 (R53). -/
def tally (n : Nat) : Nat := min 255 (n + 1)

/-- FH reports a completed frame that passed or failed its check (R53). -/
def reportCompleted (passed : Bool) (s : State) : State :=
  s.withOfm { s.ofm with
    window := s.ofm.window.map fun w =>
      { w with frames := tally w.frames, failed := if passed then w.failed else tally w.failed } }

/-- The live flag of a fault sets; a held flag that rises raises the FAULT notice and requests a restart, as its selects say (R57, R63). -/
def raiseFault (f : ChannelFault) (s : State) : State :=
  let r := s.ofm.faults.get f
  if r.live then s
  else
    let risen := !r.held
    let s := s.withOfm { s.ofm with
      faults := s.ofm.faults.set f { r with live := true, held := true }
      requests := if risen && r.restart then s.ofm.requests + 1 else s.ofm.requests }
    if risen && r.notify then raiseNotice .fault s else s

/-- The live flag of a fault clears; its held flag stays (R57). -/
def clearLive (f : ChannelFault) (s : State) : State :=
  s.withOfm { s.ofm with faults := s.ofm.faults.set f { s.ofm.faults.get f with live := false } }

/-- MP reports its two clock conditions; CLOCK-LOSS is live while at least one holds (R62). -/
def reportClocks (rx tx : Bool) (s : State) : State :=
  let s := s.withOfm { s.ofm with rxLoss := rx, txLoss := tx }
  if rx || tx then raiseFault .clockLoss s else clearLive .clockLoss s

/-- The STUCK-CARRIER run ends and its live flag clears (R60). -/
def endStuckRun (s : State) : State := clearLive .stuckCarrier (s.withOfm { s.ofm with stuckRun := 0 })

/-- FH reports an accepted frame (R53, R60). -/
def reportAccepted (s : State) : State :=
  endStuckRun (s.withOfm { s.ofm with window := s.ofm.window.map fun w => { w with accepted := true } })

/-- CHECK-STORM of a window record: 4 or more frames, more than half of them failed (R59). -/
def isStorm (frames failed : Nat) : Bool := decide (4 ≤ frames ∧ frames < failed * 2)

/-- The record of a window that starts at `t`: carrier throughout is DCD as it is then (R51). -/
def freshWindow (dcd : Bool) (t length : Nat) : Window := ⟨0, 0, 0, dcd, false, t + length⟩

/-- Step 2 of a window end: the two window-based faults (R54, R59, R60). -/
def windowFaults (w : Window) (s : State) : State :=
  let s := if isStorm w.frames w.failed then raiseFault .checkStorm s else clearLive .checkStorm s
  let run := if w.throughout && !w.accepted then min 8 (s.ofm.stuckRun + 1) else 0
  let s := s.withOfm { s.ofm with stuckRun := run }
  if run = 8 then raiseFault .stuckCarrier s else s

/-- u recomputed from the history (R55). -/
def recomputeU (s : State) : State := s.withOfm { s.ofm with u := occupancy s.ol.settings.window s.ofm.history }

/-- The four steps of the end of window `w` (R54). -/
def endWindow (w : Window) (s : State) : State :=
  let s := s.withOfm { s.ofm with history := s.ofm.history.drop 1 ++ [⟨w.carrierMs, w.frames, w.failed⟩] }
  let s := windowFaults w s
  let s := if s.frozen then s else recomputeU s
  s.withOfm { s.ofm with window := some (freshWindow s.pins.dcd w.endsAt s.ol.settings.window) }

/-- FAULTCLR: each held flag whose live flag is clear clears (R64). -/
def Faults.clearHeld (v : Faults) : Faults :=
  let c (r : FaultRecord) : FaultRecord := { r with held := r.held && r.live }
  ⟨c v.checkStorm, c v.stuckCarrier, c v.txTimeout, c v.clockLoss⟩

/-- FAULTCLR at the Monitor: the held flags, and u thaws if the last freezing one cleared (R56, R64). -/
def clearHeldFaults (s : State) : State :=
  let t := s.withOfm { s.ofm with faults := s.ofm.faults.clearHeld }
  if s.frozen && !t.frozen then recomputeU t else t

end Sys2Proof.Machine
end

