-- ==== Sys2Proof/Machine/Access.lean ====
section
/-! DEFINITION. The Access Controller: class queues, train readiness and class, bars, the access generator and delay, and its evaluation (R136 to R141). -/

namespace Sys2Proof.Machine

/-! ## Queues (R136) -/

/-- The classes whose queue holds a slot, highest first. -/
def PerClass.nonEmpty (q : PerClass (List (Fin 64))) : List MsgClass := classes.filter fun c => !(q.get c).isEmpty

/-- The head of the highest non-empty class queue. -/
def headSlot (q : PerClass (List (Fin 64))) : Option (Fin 64) :=
  match q.nonEmpty with
  | c :: _ => (q.get c).head?
  | [] => none

/-- A slot joins a queue at the tail. -/
def joinTail (q : PerClass (List (Fin 64))) (c : MsgClass) (i : Fin 64) : PerClass (List (Fin 64)) := q.set c (q.get c ++ [i])

/-- A slot joins a queue at the head. -/
def joinHead (q : PerClass (List (Fin 64))) (c : MsgClass) (i : Fin 64) : PerClass (List (Fin 64)) := q.set c (i :: q.get c)

/-- A slot leaves the queue of its class from wherever it stands. -/
def leave (q : PerClass (List (Fin 64))) (c : MsgClass) (i : Fin 64) : PerClass (List (Fin 64)) :=
  q.set c ((q.get c).filter fun j => j != i)

/-! ## Readiness, class, bars (R137, R138, R139) -/

/-- A record is READY and not named for a frame under way (R137). -/
def Receipt.available (r : Receipt) : Bool :=
  match r.state with
  | .ready _ => !r.named
  | .waiting _ => false

/-- The ready time of a record. -/
def Receipt.readyTime (r : Receipt) : Nat :=
  match r.state with
  | .ready t => t
  | .waiting t => t

/-- Receipts go by class, then by ready time; earlier in the pool wins among equals (R143). -/
def Receipt.before (a b : Receipt) : Bool :=
  decide (a.cls.num < b.cls.num) || (a.cls == b.cls && decide (a.readyTime < b.readyTime))

/-- The better of two, the earlier one among equals. -/
def pickReceipt (best : Option Receipt) (r : Receipt) : Option Receipt :=
  match best with
  | some b => if r.before b then some r else some b
  | none => some r

/-- The READY receipt that would be sent first (R143). -/
def firstReceipt (pool : List Receipt) : Option Receipt := (pool.filter Receipt.available).foldl pickReceipt none

/-- A train is ready (R137). -/
def trainReady (s : State) : Bool :=
  !s.ac.queues.nonEmpty.isEmpty || (firstReceipt s.du.pool).isSome || s.ac.beaconDue

/-- The train class (R137). -/
def trainClass (s : State) : MsgClass :=
  match s.ac.queues.nonEmpty with
  | c :: _ => c
  | [] =>
    match firstReceipt s.du.pool with
    | some r => r.cls
    | none => .routine

/-- A bar holds: QUIET, the listening period (not for a train headed by a LIFE message), clock loss (R138). -/
def barred (s : State) : Bool :=
  s.ac.quiet || (s.ac.listenEnd.isSome && s.ac.queues.life.isEmpty) || s.ofm.faults.clockLoss.live

/-- A LIFE-headed train under a live STUCK-CARRIER does not wait for the carrier (R139). -/
def overridesCarrier (s : State) : Bool := trainClass s == .life && s.ofm.faults.stuckCarrier.live

/-- The carrier test (R139). -/
def carrierClear (s : State) : Bool := !s.pins.dcd || overridesCarrier s

/-! ## The access delay (R140, R141) -/

/-- One step of the access generator (R141). -/
def nextRegister (r : BitVec 16) : BitVec 16 := if r.getLsbD 0 then (r >>> 1) ^^^ 0xB400 else r >>> 1

/-- k of the table of R140. -/
def drawBits (c : MsgClass) (u : Nat) : Nat :=
  match c with
  | .life => 0
  | .urgent => if u < 50 then 1 else 2
  | .welfare => if u < 50 then 2 else 3
  | .routine => if u < 50 then 3 else 4

/-- The access delay that a drawn value gives (R140). -/
def accessDelay (c : MsgClass) (u slot : Nat) (value : BitVec 16) : Nat := value.toNat % 2 ^ drawBits c u * slot

/-- A draw on entering COUNTING (R140). An unseeded generator stays unseeded and is never drawn from in LIVE. -/
def drawnAc (s : State) : AccessController :=
  let g := s.ac.generator.map nextRegister
  { s.ac with
    access := .counting
    generator := g
    drawClass := some (trainClass s)
    delayEnd := some (s.now + accessDelay (trainClass s) s.ofm.u s.ol.settings.slot (g.getD 0)) }

/-- An access state with no delay running. -/
def AccessController.rest (a : AccessController) (x : Access) : AccessController :=
  { a with access := x, delayEnd := none, drawClass := none }

/-- The carrier test and then a draw (R139, R140). -/
def deferOrDraw (s : State) : AccessController := if carrierClear s then drawnAc s else s.ac.rest .deferring

/-- The tests of R138 to R140 in order, for a train that is ready and has no delay running. -/
def begin (s : State) : AccessController := if barred s then s.ac.rest .barred else deferOrDraw s

/-- AC's re-evaluation (R137, R138, R140). In DEFERRING it makes the tests of R138 to R140 in their order, so that a bar which arose in COUNTING and still holds takes AC to BARRED without a draw (n33). -/
def evaluatedAc (s : State) : AccessController :=
  match s.ac.access with
  | .keyed => s.ac
  | .counting =>
    if !trainReady s then s.ac.rest .idle
    else if s.ac.drawClass = some (trainClass s) then s.ac
    else deferOrDraw s
  | .idle | .barred | .deferring => if trainReady s then begin s else s.ac.rest .idle

/-- AC re-evaluates its state (R137, n12). -/
def evaluate (s : State) : State := s.withAc (evaluatedAc s)

/-- A fresh evaluation, any delay abandoned (R137, R150). -/
def evaluateFresh (s : State) : State := evaluate (s.withAc (s.ac.rest .idle))

/-- A slot joins its class queue at the tail, and AC re-evaluates (R136, R137). -/
def enqueueTail (c : MsgClass) (i : Fin 64) (s : State) : State :=
  evaluate (s.withAc { s.ac with queues := joinTail s.ac.queues c i })

/-- A slot returns to the head of its class queue, and AC re-evaluates (R136, R137). -/
def enqueueHead (c : MsgClass) (i : Fin 64) (s : State) : State :=
  evaluate (s.withAc { s.ac with queues := joinHead s.ac.queues c i })

/-- A slot leaves its class queue, and AC re-evaluates (R136, R137). -/
def dequeue (c : MsgClass) (i : Fin 64) (s : State) : State :=
  evaluate (s.withAc { s.ac with queues := leave s.ac.queues c i })

end Sys2Proof.Machine
end

