-- ==== Sys2Proof/Machine/Frames.lean ====
section
/-! DEFINITION. Channel frames: the check sequence (R17), the layout of the three kinds (R15), the frame as sent (R14), and validation (R23 to R25). -/

namespace Sys2Proof.Machine

/-! ## The check sequence -/

/-- One bit of the CRC (R17, step 3). -/
def crcBit (r : BitVec 16) (b : Bool) : BitVec 16 :=
  let r' := r >>> 1
  if b != r.getLsbD 0 then r' ^^^ 0x8408 else r'

/-- The bits of a byte in the order sent, bit 0 first (R14). -/
def byteBits (b : Byte) : List Bool := (List.range 8).map fun i => b.getLsbD i

/-- The register after a byte. -/
def crcByte (r : BitVec 16) (b : Byte) : BitVec 16 := (byteBits b).foldl crcBit r

/-- The register after a sequence of bytes. The match makes an evaluation work out each value before it takes the next byte. -/
def crcFrom (r : BitVec 16) : List Byte → BitVec 16
  | [] => r
  | b :: rest =>
    match (crcByte r b).toNat with
    | 0 => crcFrom 0 rest
    | n + 1 => crcFrom (BitVec.ofNat 16 (n + 1)) rest

/-- The check of a sequence of bytes (R17). -/
def crc (bytes : List Byte) : BitVec 16 := ~~~ (crcFrom 0xFFFF bytes)

/-! ## Fields -/

/-- A 16-bit field of two bytes, low byte first (R14). -/
def word16 (lo hi : Byte) : BitVec 16 := hi ++ lo

/-- The two bytes of a 16-bit field, low byte first (R14). -/
def wordBytes (w : BitVec 16) : List Byte := [w.setWidth 8, (w >>> 8).setWidth 8]

/-- Byte `i` of a frame; a frame that has it is never read beyond its end. -/
def byteAt (bytes : List Byte) (i : Nat) : Byte := bytes.getD i 0

/-- Word at bytes `i`, `i+1`. -/
def wordAt (bytes : List Byte) (i : Nat) : BitVec 16 := word16 (byteAt bytes i) (byteAt bytes (i + 1))

/-- Common header (Table 2-1), less the payload length. -/
structure Header where
  kind      : Nibble
  centre    : Bool
  congested : Bool
  sender    : Code
  tier      : Nibble
  dist      : Nibble
deriving DecidableEq, Repr

/-- TRAFFIC payload (Table 2-2). `countM1` is segment count less one. -/
structure Traffic where
  origin     : Code
  cls        : BitVec 2
  serial     : Serial
  dest       : Code
  budget     : Nibble
  used       : Nibble
  index      : BitVec 3
  bodyLength : BitVec 10
  countM1    : BitVec 3
  data       : List Byte
deriving DecidableEq, Repr

/-- RECEIPT payload (Table 2-3). -/
structure ReceiptFrame where
  origin    : Code
  cls       : BitVec 2
  serial    : Serial
  deliverer : Code
  budget    : Nibble
  used      : Nibble
deriving DecidableEq, Repr

/-- A bit as a field of a byte. -/
def bitByte (b : Bool) (i : Nat) : Byte := if b then 1#8 <<< i else 0

/-- The five header bytes (Table 2-1); zero bits are sent as 0. -/
def headerBytes (h : Header) (len : Byte) : List Byte :=
  [h.kind.setWidth 8 ||| bitByte h.centre 4 ||| bitByte h.congested 5]
    ++ wordBytes (h.tier ++ h.sender) ++ [h.dist.setWidth 8, len]

/-- The TRAFFIC payload bytes (Table 2-2). -/
def trafficBytes (t : Traffic) : List Byte :=
  wordBytes ((0#2) ++ t.cls ++ t.origin) ++ wordBytes t.serial ++ wordBytes (t.budget ++ t.dest)
    ++ [(0#1) ++ t.index ++ t.used] ++ wordBytes ((0#3) ++ t.countM1 ++ t.bodyLength) ++ t.data

/-- The RECEIPT payload bytes (Table 2-3). -/
def receiptBytes (r : ReceiptFrame) : List Byte :=
  wordBytes ((0#2) ++ r.cls ++ r.origin) ++ wordBytes r.serial ++ wordBytes (r.budget ++ r.deliverer)
    ++ [(0#4) ++ r.used]

/-- Header, payload and check: the frame after the sync (R14, R16). -/
def frameBytes (h : Header) (payload : List Byte) : List Byte :=
  let body := headerBytes h (BitVec.ofNat 8 payload.length) ++ payload
  body ++ wordBytes (crc body)

/-- The sync bytes (R14). -/
def syncBytes : List Byte := [0x5A, 0xC3, 0x96]

/-- The common header of a frame's bytes. -/
def parseHeader (bytes : List Byte) : Header where
  kind := (byteAt bytes 0).setWidth 4
  centre := (byteAt bytes 0).getLsbD 4
  congested := (byteAt bytes 0).getLsbD 5
  sender := (wordAt bytes 1).setWidth 12
  tier := ((wordAt bytes 1) >>> 12).setWidth 4
  dist := (byteAt bytes 3).setWidth 4

/-- The payload length L (Table 2-1, byte 4). -/
def payloadLength (bytes : List Byte) : Nat := (byteAt bytes 4).toNat

/-- The payload bytes. -/
def payload (bytes : List Byte) : List Byte := (bytes.drop 5).take (payloadLength bytes)

/-- The fields of a TRAFFIC payload. -/
def parseTraffic (p : List Byte) : Traffic where
  origin := (wordAt p 0).setWidth 12
  cls := ((wordAt p 0) >>> 12).setWidth 2
  serial := wordAt p 2
  dest := (wordAt p 4).setWidth 12
  budget := ((wordAt p 4) >>> 12).setWidth 4
  used := (byteAt p 6).setWidth 4
  index := ((byteAt p 6) >>> 4).setWidth 3
  bodyLength := (wordAt p 7).setWidth 10
  countM1 := ((wordAt p 7) >>> 10).setWidth 3
  data := p.drop 9

/-- The fields of a RECEIPT payload. -/
def parseReceipt (p : List Byte) : ReceiptFrame where
  origin := (wordAt p 0).setWidth 12
  cls := ((wordAt p 0) >>> 12).setWidth 2
  serial := wordAt p 2
  deliverer := (wordAt p 4).setWidth 12
  budget := ((wordAt p 4) >>> 12).setWidth 4
  used := (byteAt p 6).setWidth 4

/-- Segment count of a frame (Table 2-2). -/
def Traffic.count (t : Traffic) : Nat := t.countM1.toNat + 1

/-- Identity of a TRAFFIC frame (R4). -/
def Traffic.id (t : Traffic) : Identity := ⟨t.origin, t.serial⟩

/-- Identity of a RECEIPT frame (R4). -/
def ReceiptFrame.id (r : ReceiptFrame) : Identity := ⟨r.origin, r.serial⟩

/-! ## Segments and budgets -/

/-- Segments of a body of `b` bytes, ⌈b/64⌉ (R12). -/
def segments (b : Nat) : Nat := (b + 63) / 64

/-- Data size of segment `i` of a body of `b` bytes in `c` segments (R12). -/
def segmentSize (b c i : Nat) : Nat := if i + 1 < c then 64 else b - 64 * (c - 1)

/-- Effective budget: the smaller of the hop budget and 15 less the hops used (R9). -/
def effectiveBudget (budget used : Nibble) : Nat := min budget.toNat (15 - used.toNat)

/-! ## Validation -/

/-- A code no sender, origin or deliverer field admits (Table 1-2). -/
def notIndividual (c : Code) : Bool := c == 0 || c == Config.anyCentre || c == Config.allStations

/-- Step 1: the received check equals the one computed over header and payload (R23). -/
def checkOk (bytes : List Byte) : Bool :=
  crc (bytes.take (5 + payloadLength bytes)) == wordAt bytes (5 + payloadLength bytes)

/-- A callsign byte: A-Z, 0-9 or "/" (Table 2-4). -/
def callByte (c : Byte) : Bool := (0x41 ≤ c.toNat && c.toNat ≤ 0x5A) || isDigit c || c == 0x2F

/-- The TRAFFIC conditions of Table 2-6. -/
def trafficMalformed (len : Nat) (t : Traffic) : Bool :=
  decide (len < 10 ∨ Config.maxPayload < len) || notIndividual t.origin || t.dest == 0 || t.budget == 0
    || t.bodyLength == 0 || t.count != segments t.bodyLength.toNat || decide (t.count ≤ t.index.toNat)
    || len - 9 != segmentSize t.bodyLength.toNat t.count t.index.toNat

/-- The RECEIPT conditions of Table 2-6. -/
def receiptMalformed (len : Nat) (r : ReceiptFrame) : Bool :=
  len != 7 || notIndividual r.origin || notIndividual r.deliverer || r.budget == 0

/-- The BEACON conditions of Table 2-6. -/
def beaconMalformed (len : Nat) (p : List Byte) : Bool :=
  decide (len < 3 ∨ 10 < len) || p.any fun c => !callByte c

/-- Step 2: the kind and field test (R24). -/
def malformed (bytes : List Byte) : Bool :=
  let h := parseHeader bytes
  let p := payload bytes
  notIndividual h.sender ||
    (if h.kind = 1 then trafficMalformed (payloadLength bytes) (parseTraffic p)
     else if h.kind = 2 then receiptMalformed (payloadLength bytes) (parseReceipt p)
     else if h.kind = 3 then beaconMalformed (payloadLength bytes) p
     else true)

/-- Where validation leaves a frame (R23 to R26). -/
inductive Verdict where
  | checkfail | malformed | clash | accepted
deriving DecidableEq, Repr

/-- The four steps of validation in order, against an own code (R23 to R26). -/
def validate (own : Option Code) (bytes : List Byte) : Verdict :=
  if !checkOk bytes then .checkfail
  else if malformed bytes then .malformed
  else if own = some (parseHeader bytes).sender then .clash
  else .accepted

/-- Received tier: 0 when the CENTRE flag is set, the tier field otherwise (R26). -/
def Header.receivedTier (h : Header) : Nibble := if h.centre then 0 else h.tier

/-- The bits of a frame in the order sent (R14). -/
def frameBits (bytes : List Byte) : List Bool := bytes.flatMap byteBits

end Sys2Proof.Machine
end

