-- ==== Sys2Proof/Machine/Identities.lean ====
section
/-! DEFINITION. The Identity Table: hash, chains, lookup, insert, disposition and link writes, sweep (Chapter 6). -/

namespace Sys2Proof.Machine

/-- Bucket of an identity: the low 9 bits of serial XOR (origin × 16) (R92). -/
def bucketOf (i : Identity) : Fin 512 :=
  Fin.ofNat 512 (i.serial ^^^ (i.origin.setWidth 16 <<< 4)).toNat

/-- A place that holds an entry: primary A or B of a bucket, or an overflow entry. -/
inductive Spot where
  | primA (b : Fin 512)
  | primB (b : Fin 512)
  | overflow (i : Fin 256)
deriving DecidableEq, Repr

/-- The entry at a place. -/
def IdTable.at (t : IdTable) : Spot → Option Entry
  | .primA b => (look t.buckets b).primA
  | .primB b => (look t.buckets b).primB
  | .overflow i => (look t.overflow i).entry

/-- The table with the entry at a place replaced. -/
def IdTable.put (t : IdTable) (p : Spot) (e : Option Entry) : IdTable :=
  match p with
  | .primA b => { t with buckets := place t.buckets b { look t.buckets b with primA := e } }
  | .primB b => { t with buckets := place t.buckets b { look t.buckets b with primB := e } }
  | .overflow i => { t with overflow := place t.overflow i { look t.overflow i with entry := e } }

/-- The overflow entries from a link on, in chain order (R90); a chain holds at most 256. -/
def walk (v : Vector Overflow 256) : Nat → Option (Fin 256) → List (Fin 256)
  | 0, _ => []
  | _ + 1, none => []
  | fuel + 1, some i => i :: walk v fuel (look v i).next

/-- The chain of a bucket (R90). -/
def IdTable.chain (t : IdTable) (b : Fin 512) : List (Fin 256) := walk t.overflow 256 (look t.buckets b).head

/-- The places of a bucket in lookup order: A, B, then the chain (R94). -/
def IdTable.spots (t : IdTable) (b : Fin 512) : List Spot := .primA b :: .primB b :: (t.chain b).map .overflow

/-- Whether a place holds a valid entry of an identity. -/
def IdTable.holds (t : IdTable) (i : Identity) (p : Spot) : Bool :=
  match t.at p with
  | some e => e.id == i
  | none => false

/-- Where an identity's entry stands: the first in lookup order (R94). -/
def IdTable.find (t : IdTable) (i : Identity) : Option Spot := (t.spots (bucketOf i)).find? (t.holds i)

/-- A lookup followed by a write: a hit sets the entry's age to 0 and then applies `f`; a miss changes nothing (R93, R94). -/
def IdTable.modify (t : IdTable) (i : Identity) (f : Entry → Entry) : IdTable :=
  match t.find i with
  | some p => t.put p ((t.at p).map fun e => f { e with age := 0 })
  | none => t

/-- The entry of an identity, as it stands. -/
def IdTable.entry (t : IdTable) (i : Identity) : Option Entry := (t.find i).bind t.at

/-- A lookup: the entry found, if any, and the table with its age at 0 (R94). -/
def IdTable.lookup (t : IdTable) (i : Identity) : Option Entry × IdTable := (t.entry i, t.modify i id)

/-- The fields of an entry at insert (R91). -/
def IdTable.newEntry (t : IdTable) (i : Identity) (d : Disposition) (originated : Bool) : Entry :=
  ⟨i, d, none, 0, t.sweep.isSome, originated, none, false⟩

/-- Of two unlinked entries, the one that eviction chooses so far: the older, the earlier among equals (R96). -/
def olderSpot (t : IdTable) (best : Option (Spot × Nat)) (p : Spot) : Option (Spot × Nat) :=
  match t.at p with
  | some e =>
    if e.link.isSome then best
    else
      match best with
      | some (_, a) => if a < e.age then some (p, e.age) else best
      | none => some (p, e.age)
  | none => best

/-- The entry that eviction in the bucket overwrites (R96). -/
def IdTable.evictee (t : IdTable) (b : Fin 512) : Option Spot :=
  ((t.spots b).foldl (olderSpot t) none).map Prod.fst

/-- What an insert reports (R95, R97). -/
inductive InsertResult where
  | inserted (t : IdTable)
  | found (t : IdTable)
  | failed
deriving DecidableEq, Repr

/-- A new entry at the head of a bucket's chain, in overflow entry `x`, which leaves the free list (R95, step 2). -/
def IdTable.pushOverflow (t : IdTable) (b : Fin 512) (x : Fin 256) (rest : List (Fin 256)) (e : Entry) : IdTable :=
  { t with
    overflow := place t.overflow x ⟨some e, (look t.buckets b).head⟩
    buckets := place t.buckets b { look t.buckets b with head := some x }
    free := rest }

/-- Insert of an identity (R95, R96, R97). -/
def IdTable.insert (t : IdTable) (i : Identity) (d : Disposition) (originated : Bool) : InsertResult :=
  match t.find i with
  | some _ => .found (t.modify i id)
  | none =>
    let b := bucketOf i
    let e := t.newEntry i d originated
    if (look t.buckets b).primA.isNone then .inserted (t.put (.primA b) (some e))
    else if (look t.buckets b).primB.isNone then .inserted (t.put (.primB b) (some e))
    else
      match t.free with
      | x :: rest => .inserted (t.pushOverflow b x rest e)
      | [] =>
        match t.evictee b with
        | some p => .inserted (t.put p (some e))
        | none => .failed

/-- A disposition written by a block's rule; on a linked entry only DELIVERED is applied (R93). -/
def IdTable.dispose (t : IdTable) (i : Identity) (d : Disposition) : IdTable :=
  t.modify i fun e => if e.link.isSome && d != .delivered then e else { e with disposition := d }

/-- A slot link set: the disposition becomes STORED (R98). -/
def IdTable.link (t : IdTable) (i : Identity) (slot : Fin 64) : IdTable :=
  t.modify i fun e => { e with disposition := .stored, link := some slot }

/-- A slot link removed with the disposition of the freeing rule; the age is 0 (R98). -/
def IdTable.unlink (t : IdTable) (i : Identity) (d : Disposition) : IdTable :=
  t.modify i fun e => { e with disposition := d, link := none }

/-- The receipt time written (R99). -/
def IdTable.setReceiptTime (t : IdTable) (i : Identity) (now : Nat) : IdTable :=
  t.modify i fun e => { e with receiptTime := some now }

/-- Receipt relayed written (R99). -/
def IdTable.setReceiptRelayed (t : IdTable) (i : Identity) : IdTable :=
  t.modify i fun e => { e with receiptRelayed := true }

/-- An overflow entry taken out of a bucket's chain: what named it names its next link (R101). -/
def IdTable.unchain (t : IdTable) (b : Fin 512) (x : Fin 256) : IdTable :=
  let nxt := (look t.overflow x).next
  if (look t.buckets b).head = some x then
    { t with buckets := place t.buckets b { look t.buckets b with head := nxt } }
  else
    match (t.chain b).find? fun p => (look t.overflow p).next == some x with
    | some p => { t with overflow := place t.overflow p { look t.overflow p with next := nxt } }
    | none => t

/-- The entry at a place of bucket `b` removed: a primary becomes invalid; an overflow entry leaves its chain for the tail of the free list (R101). -/
def IdTable.remove (t : IdTable) (b : Fin 512) (p : Spot) : IdTable :=
  match p with
  | .overflow x =>
    let t := t.unchain b x
    { t with overflow := place t.overflow x ⟨none, none⟩, free := t.free ++ [x] }
  | p => t.put p none

/-- The entry of an identity removed from the table (R153, step 3; R88). -/
def IdTable.withdraw (t : IdTable) (i : Identity) : IdTable :=
  match t.find i with
  | some p => t.remove (bucketOf i) p
  | none => t

/-- The sweep's visit of one entry: a fresh one is passed over; another is aged, and removed if unlinked and aged `life` or more (R100, R101). -/
def IdTable.age (life : Nat) (b : Fin 512) (t : IdTable) (p : Spot) : IdTable :=
  match t.at p with
  | none => t
  | some e =>
    if e.fresh then t
    else
      let a := min 255 (e.age + 1)
      if life ≤ a ∧ e.link = none then t.remove b p else t.put p (some { e with age := a })

/-- The sweep's visit of a bucket: A, B, then the chain from its head (R100). -/
def IdTable.visit (life : Nat) (t : IdTable) (b : Fin 512) : IdTable := (t.spots b).foldl (IdTable.age life b) t

/-- An entry whose fresh mark is no. -/
def Entry.stale (e : Entry) : Entry := { e with fresh := false }

/-- Every fresh mark set to no, as when the sweep completes (R100). -/
def IdTable.clearFresh (t : IdTable) : IdTable :=
  { t with
    buckets := t.buckets.map fun b => { b with primA := b.primA.map Entry.stale, primB := b.primB.map Entry.stale }
    overflow := t.overflow.map fun o => { o with entry := o.entry.map Entry.stale } }

/-- Whether an optional entry is there, as a count. -/
def validCount (e : Option Entry) : Nat := if e.isSome then 1 else 0

/-- Number of valid entries (R102). -/
def IdTable.valid (t : IdTable) : Nat :=
  (t.buckets.toList.map fun b => validCount b.primA + validCount b.primB).sum
    + (t.overflow.toList.map fun o => validCount o.entry).sum

end Sys2Proof.Machine
end

