-- ==== Sys2Proof/Machine/Messages.lean ====
section
/-! DEFINITION. The Message Store: slots, segment blocks, allocation and eviction, freeing (R67 to R79, R85). -/

namespace Sys2Proof.Machine

/-! ## Views -/

/-- The blocks attached to a slot, in ascending segment index (R69). -/
def Slot.attached (sl : Slot) : List (Fin 384) := sl.blocks.toList.filterMap fun b => b

/-- Every index below the segment count is in the present set (R12). -/
def Slot.complete (sl : Slot) : Bool := (List.finRange 8).all fun i => decide (sl.count ≤ i.val) || (look sl.blocks i).isSome

/-- Not originated and not deliver-here (5.11). -/
def Slot.relayOnly (sl : Slot) : Bool := !sl.originated && !sl.deliverHere

/-- Effective budget of the stored copy (R9). -/
def Slot.effective (sl : Slot) : Nat := effectiveBudget sl.budget sl.used

/-- The index of the last segment. -/
def Slot.lastIndex (sl : Slot) : Fin 8 := Fin.ofNat 8 (sl.count - 1)

/-- Number of FREE slots (R70). -/
def Store.freeSlots (m : Store) : Nat := (m.slots.toList.filter Option.isNone).length

/-- Number of free blocks (R70). -/
def Store.freeBlocks (m : Store) : Nat := m.free.length

/-- CONGESTED (R85). -/
def Store.congested (m : Store) : Bool := decide (m.freeSlots < Config.lowSlots ∨ m.freeBlocks < Config.lowBlocks)

/-- The lowest-indexed FREE slot (R75). -/
def Store.lowestFree (m : Store) : Option (Fin 64) := (List.finRange 64).find? fun i => (look m.slots i).isNone

/-- The slot that is ON-AIR (R142). -/
def Store.onAir (m : Store) : Option (Fin 64) :=
  (List.finRange 64).find? fun i =>
    match look m.slots i with
    | some sl => sl.state == .onAir
    | none => false

/-! ## Changes of the store alone -/

/-- A slot's record changed. -/
def Store.modSlot (m : Store) (i : Fin 64) (f : Slot → Slot) : Store :=
  { m with slots := place m.slots i ((look m.slots i).map f) }

/-- A slot goes FREE: its blocks to the tail of the free list in ascending index, all its fields absent (R71, steps 1, 2 and 5). -/
def Store.release (m : Store) (i : Fin 64) : Store :=
  match look m.slots i with
  | some sl => { m with slots := place m.slots i none, free := m.free ++ sl.attached }
  | none => m

/-- A segment written into the first bytes of a block; the rest of the block stays (R69). -/
def writeBlock (old : Vector Byte 64) (data : List Byte) : Vector Byte 64 :=
  Vector.ofFn fun i : Fin 64 => data.getD i.val (look old i)

/-- The head of the free list goes to a slot for a segment index it lacks, with the segment's data (R69, R80 step 4). -/
def Store.attach (m : Store) (i : Fin 64) (index : Fin 8) (data : List Byte) : Store :=
  match m.free, look m.slots i with
  | b :: rest, some sl =>
    if look sl.blocks index = none then
      { m with
        slots := place m.slots i (some { sl with blocks := place sl.blocks index (some b) })
        blocks := place m.blocks b (writeBlock (look m.blocks b) data)
        free := rest }
    else m
  | _, _ => m

/-- A FREE slot takes a record that has no block yet (R75, R83). -/
def Store.occupy (m : Store) (i : Fin 64) (sl : Slot) : Store :=
  if look m.slots i = none then
    { m with slots := place m.slots i (some { sl with blocks := Vector.replicate 8 none }) }
  else m

/-- Segments stored one after another, index 0 first (R83). -/
def Store.attachAll (m : Store) (i : Fin 64) (segs : List (Fin 8 × List Byte)) : Store :=
  segs.foldl (fun m x => m.attach i x.1 x.2) m

/-- A body cut into its segments (R12). -/
def cutBody (body : List Byte) : List (Fin 8 × List Byte) :=
  (List.range (segments body.length)).map fun i => (Fin.ofNat 8 i, (body.drop (64 * i)).take 64)

/-! ## Allocation (R77) -/

/-- An eligible victim for a request of class `p` (Table 5-4). -/
def Slot.eligible (p : MsgClass) (sl : Slot) : Bool :=
  sl.relayOnly && decide (p.num < sl.cls.num) &&
    (sl.state == .assembling || sl.state == .held || sl.state == .await || (sl.state == .queued && sl.resumeAt == 0))

/-- Whether victim `a` comes before `b`: class number high to low, then completion time (Table 5-4). -/
def victimBefore (a b : Slot) : Bool :=
  decide (b.cls.num < a.cls.num) || (a.cls == b.cls && decide (a.completion ≤ b.completion))

/-- A victim put into its place in a list in order of choice. -/
def insertVictim (x : Fin 64 × Slot) : List (Fin 64 × Slot) → List (Fin 64 × Slot)
  | [] => [x]
  | y :: r => if victimBefore x.2 y.2 then x :: y :: r else y :: insertVictim x r

/-- The eligible victims in order of choice; equal ones by slot index (Table 5-4). -/
def Store.victims (m : Store) (p : MsgClass) : List (Fin 64 × Slot) :=
  ((List.finRange 64).filterMap fun i =>
    match look m.slots i with
    | some sl => if sl.eligible p then some (i, sl) else none
    | none => none).foldr insertVictim []

/-- Victims from the front of the list until both shortfalls are covered; none if the whole list does not cover them (R77, steps 3 and 4). -/
def coverShort : List (Fin 64 × Slot) → Nat → Nat → Option (List (Fin 64))
  | _, 0, 0 => some []
  | [], _, _ => none
  | (i, sl) :: r, a, b => (coverShort r (a - 1) (b - sl.attached.length)).map fun l => i :: l

/-- The victims of a request for slots and blocks at class `p` (R77). -/
def Store.plan (m : Store) (p : MsgClass) (slots blocks : Nat) : Option (List (Fin 64)) :=
  coverShort (m.victims p) (slots - m.freeSlots) (blocks - m.freeBlocks)

/-! ## Changes that reach other blocks -/

/-- A slot's record changed, in the part. -/
def modSlot (i : Fin 64) (f : Slot → Slot) (s : State) : State := s.withMs (s.ms.modSlot i f)

/-- A slot goes FREE with a disposition (R71). -/
def freeSlot (i : Fin 64) (d : Disposition) (s : State) : State :=
  match look s.ms.slots i with
  | none => s
  | some sl =>
    let s := (s.withMs (s.ms.release i)).withIdt (s.idt.unlink sl.id d)
    if sl.state = .queued then dequeue sl.cls i s else s

/-- A victim is freed DROPPED, with its count and notice (R78). -/
def evict (i : Fin 64) (s : State) : State := reportDropped (freeSlot i .dropped s)

/-- An allocation request: the state after the evictions it makes, or none if it fails (R77). -/
def allocate (p : MsgClass) (slots blocks : Nat) (s : State) : Option State :=
  (s.ms.plan p slots blocks).map fun vs => vs.foldl (fun s i => evict i s) s

/-- A slot enters QUEUED at the tail of its class queue with resume index 0, its deadline and sent distance absent (R68, R136). -/
def toQueueTail (i : Fin 64) (s : State) : State :=
  match look s.ms.slots i with
  | none => s
  | some sl =>
    enqueueTail sl.cls i
      (modSlot i (fun sl => { sl with state := .queued, resumeAt := 0, deadline := none, sentDist := none }) s)

/-- The ON-AIR slot returns to QUEUED at the head of its class queue; its resume index is kept or becomes 0 (R144, R146, R87). -/
def requeueOnAir (keepResume : Bool) (s : State) : State :=
  match s.ms.onAir with
  | none => s
  | some i =>
    match look s.ms.slots i with
    | none => s
    | some sl =>
      enqueueHead sl.cls i
        (modSlot i (fun sl => { sl with state := .queued, resumeAt := if keepResume then sl.resumeAt else 0 }) s)

end Sys2Proof.Machine
end

