-- ==== Sys2Proof/Machine/Delivery.lean ====
section
/-! DEFINITION. The Delivery Unit: Receipt Pool, Outcome List, delivery, the end of relay work, echoes, duplicates (R154 to R165). -/

namespace Sys2Proof.Machine

/-! ## Outcome List (R165) -/

/-- A record joins the Outcome List; at 16 the oldest leaves (R165). -/
def addOutcome (id : Identity) (k : OutcomeKind) (s : State) : State :=
  let l := if s.du.outcomes.length < Config.poolSize then s.du.outcomes else s.du.outcomes.drop 1
  s.withDu { s.du with outcomes := l ++ [⟨id, k⟩] }

/-! ## Receipt Pool (R164) -/

/-- The pool holds a record of an identity. -/
def poolHas (pool : List Receipt) (id : Identity) : Bool := pool.any fun r => r.id == id

/-- The deadline of a WAITING record. -/
def Receipt.waitingUntil (r : Receipt) : Option Nat :=
  match r.state with
  | .waiting t => some t
  | .ready _ => none

/-- Among displaceable records: highest class number, then latest deadline, then the one that joined last (R164, step 2). -/
def pickDisplaced (p : MsgClass) (best : Option Receipt) (r : Receipt) : Option Receipt :=
  match r.waitingUntil with
  | none => best
  | some t =>
    if r.cls.num ≤ p.num then best
    else
      match best with
      | none => some r
      | some b =>
        if b.cls.num < r.cls.num ∨ (b.cls = r.cls ∧ b.waitingUntil.getD 0 ≤ t) then some r else some b

/-- The record that a new record of class `p` displaces from a full pool. -/
def displaced (p : MsgClass) (pool : List Receipt) : Option Receipt := pool.foldl (pickDisplaced p) none

/-- The pool without the record of an identity. -/
def poolWithout (id : Identity) (pool : List Receipt) : List Receipt := pool.filter fun r => r.id != id

/-- The pool replaced, and AC re-evaluates (R137). -/
def withPool (pool : List Receipt) (s : State) : State := evaluate (s.withDu { s.du with pool := pool })

/-- A request for a pool record (R164). -/
def admitReceipt (r : Receipt) (s : State) : State :=
  if poolHas s.du.pool r.id then s
  else if s.du.pool.length < Config.poolSize then withPool (s.du.pool ++ [r]) s
  else
    match displaced r.cls s.du.pool with
    | some d => withPool (poolWithout d.id s.du.pool ++ [r]) (reportDropped s)
    | none => reportDropped s

/-- A receipt issued here: a READY record, DELIVERED and the receipt time on the entry (R159, step 3). -/
def issueReceipt (id : Identity) (cls : MsgClass) (s : State) : State :=
  let r : Receipt := ⟨id, cls, s.ol.ownCode.getD 0, BitVec.ofNat 4 s.ol.settings.hops, 0, .ready s.now, [], false⟩
  let s := admitReceipt r s
  s.withIdt ((s.idt.dispose id .delivered).setReceiptTime id s.now)

/-! ## Delivery (R159) -/

/-- The destination is this station, or ANY-CENTRE at a centre (R3). -/
def addressedHere (s : State) (dest : Code) : Bool :=
  decide (s.ol.ownCode = some dest) || (dest == Config.anyCentre && s.ol.centre)

/-- The deliver-here role of a destination (R72). -/
def deliversHere (s : State) (dest : Code) : Bool := addressedHere s dest || dest == Config.allStations

/-- A message completed in slot `i` with deliver-here set is delivered (R159). -/
def deliver (i : Fin 64) (s : State) : State :=
  match look s.ms.slots i with
  | none => s
  | some sl =>
    let s := raiseNotice (if sl.cls = .life then .inboxLife else .inbox) (modSlot i (fun sl => { sl with unread := true }) s)
    if addressedHere s sl.dest && !sl.answered then issueReceipt sl.id sl.cls s else s

/-- The relay work of a slot that is not originated ends (R154). -/
def endRelayWork (i : Fin 64) (s : State) : State :=
  match look s.ms.slots i with
  | none => s
  | some sl =>
    if sl.deliverHere && sl.unread then
      let s := modSlot i (fun sl => { sl with state := .inbox, deadline := none, sentDist := none }) s
      if sl.state = .queued then dequeue sl.cls i s else s
    else freeSlot i .relayed s

/-- An originated slot's echo, or its sending with budget 1: FREE with RELAYED, and SENT for a bulletin (R155, R156). -/
def retireOriginated (i : Fin 64) (s : State) : State :=
  match look s.ms.slots i with
  | none => s
  | some sl =>
    let s := freeSlot i .relayed s
    if sl.dest = Config.allStations then addOutcome sl.id .sent s else s

/-! ## Echoes (R156) -/

/-- A distance test that 15, unknown, passes (Table 8-4, condition 4). -/
def noFarther (a b : Nibble) : Bool := decide (a.toNat ≤ b.toNat) || a == 15 || b == 15

/-- A TRAFFIC copy of the identity of an AWAIT slot (R156). -/
def possibleEcho (i : Fin 64) (sl : Slot) (h : Header) (t : Traffic) (s : State) : State :=
  if sl.originated then retireOriginated i s
  else if !h.congested && decide (sl.used.toNat + 2 ≤ t.used.toNat) && noFarther h.dist (sl.sentDist.getD 15) then
    endRelayWork i s
  else s

/-! ## Duplicates (R160) -/

/-- A copy of a message already delivered here; `cls` is the message's class (R160). -/
def duplicate (e : Entry) (cls : MsgClass) (t : Traffic) (s : State) : State :=
  let due :=
    match e.receiptTime with
    | some r => decide (r + s.ol.settings.echo * 1000 ≤ s.now)
    | none => false
  if t.index.toNat + 1 = t.count ∧ e.disposition = .delivered ∧ due = true ∧ poolHas s.du.pool t.id = false then
    issueReceipt t.id cls s
  else s

end Sys2Proof.Machine
end

