-- ==== Sys2Proof/Machine/Operator.lean ====
section
/-! DEFINITION. The Operator Line's plumbing: the input buffer and its lines, the reading of a line as a command, the output buffer and the placing of answers, the tests that come before a command's own rule (R167 to R172). -/

namespace Sys2Proof.Machine

/-! ## Input (R167, R168) -/

/-- Bytes that a line holds in the input buffer: its stored characters and its stored carriage return (R168). -/
def InLine.bytes (l : InLine) : Nat := l.text.length + (if l.crStored then 1 else 0)

/-- Bytes that the input buffer holds (R168). -/
def OperatorLine.inputCount (o : OperatorLine) : Nat := (o.lines.map InLine.bytes).sum + o.typing.bytes

/-- The input buffer has room for a byte (R168). -/
def OperatorLine.inputRoom (o : OperatorLine) : Bool := decide (o.inputCount < Config.inputCapacity)

/-- ORDY after a stored character: off at 192 bytes or more (R168). -/
def OperatorLine.afterStore (o : OperatorLine) : OperatorLine :=
  { o with ordy := o.ordy && decide (o.inputCount < Config.ordyOff) }

/-- ORDY after a line is taken: on at 64 bytes or fewer (R168). -/
def OperatorLine.afterTake (o : OperatorLine) : OperatorLine :=
  { o with ordy := o.ordy || decide (o.inputCount ≤ Config.ordyOn) }

/-- A carriage return ends the line being typed, stored or not (R168, n10). -/
def OperatorLine.receiveReturn (o : OperatorLine) : OperatorLine :=
  let l := { o.typing with crStored := o.inputRoom, overrun := o.typing.overrun || !o.inputRoom }
  let o' := { o with lines := o.lines ++ [l], typing := InLine.empty }
  if o.inputRoom then o'.afterStore else o'

/-- Another character joins the line being typed: counted; marked overrun when the buffer is full, too long beyond the 160th; stored otherwise (R168). -/
def OperatorLine.receiveOther (o : OperatorLine) (ch : Byte) : OperatorLine :=
  let n := o.typing.received + 1
  let stored := o.inputRoom && decide (n ≤ Config.lineLimit)
  let l := { o.typing with
    received := n
    overrun := o.typing.overrun || !o.inputRoom
    tooLong := o.typing.tooLong || decide (Config.lineLimit < n)
    text := if stored then o.typing.text ++ [ch] else o.typing.text }
  if stored then { o with typing := l }.afterStore else { o with typing := l }

/-- A character received on ORX: one with a framing error and a line feed are discarded (R167). -/
def OperatorLine.receive (o : OperatorLine) (ch : Byte) (framingError : Bool) : OperatorLine :=
  if framingError || ch == 0x0A then o
  else if ch = 0x0D then o.receiveReturn
  else o.receiveOther ch

/-- A complete line as it is taken (R168). -/
def InLine.line (l : InLine) : OpLine := ⟨l.text, l.overrun, l.tooLong⟩

/-! ## Reading a line (R170, R172) -/

/-- The command names of Table 11-1 but TEST, with the row that each starts. -/
def commandRows : List (Text × (List Text → Instr)) :=
  [(txt "CODE", .code), (txt "CALL", .call), (txt "CENTRE", .centre), (txt "HOPS", .hops), (txt "TIMING", .timing),
    (txt "CLASS", .classCmd), (txt "SPAN", .span), (txt "FAULTSEL", .faultsel), (txt "ONAIR", .onair),
    (txt "STATUS", .status), (txt "POST", .post), (txt "FETCH", .fetch), (txt "CANCEL", .cancel)]
  ++ [(txt "LIST", .list), (txt "ROUTES", .routes), (txt "OUTCOMES", .outcomes), (txt "PIN", .pin), (txt "UNPIN", .unpin),
    (txt "PURGE", .purge), (txt "MASK", .mask), (txt "UNMASK", .unmask), (txt "FAULTCLR", .faultclr), (txt "QUIET", .quiet),
    (txt "RESUME", .resume), (txt "RESTART", .restart)]

/-- The row that TEST starts, by its number (R173). -/
def testRow : List Text → Option Instr
  | w :: args =>
    match parseNumber w with
    | some 1 => some (.test1 args)
    | some 2 => some (.test2 args)
    | some 3 => some (.test3 args)
    | some 4 => some (.test4 args)
    | _ => none
  | [] => none

/-- The row that the words of a command line start, if any (R170). -/
def commandOf : List Text → Option Instr
  | [] => none
  | w :: args =>
    if upperText w = txt "TEST" then testRow args
    else (commandRows.find? fun r => r.1 == upperText w).map fun r => r.2 args

/-- A command line as a row: an unmarked line that starts a command is that command; any other is UNKNOWN_COMMAND (R170). -/
def commandLine (l : OpLine) : Instr :=
  if l.overrun || l.tooLong then .unknownCommand l else (commandOf (words l.text)).getD (.unknownCommand l)

/-- The closing line of a body: a line holding exactly "." (R172). -/
def isClosing (l : OpLine) : Bool := l.text == [0x2E] && !l.overrun && !l.tooLong

/-- The row that a taken line is: a body line or the closing line while a body is collected, a command line otherwise (R170, R172). -/
def lineRow (collecting : Bool) (l : OpLine) : Instr :=
  if collecting then (if isClosing l then .closingLine else .bodyLine l) else commandLine l

/-- The row that the oldest complete line of the input buffer is. -/
def headRow (o : OperatorLine) : Option Instr := o.lines.head?.map fun l => lineRow o.post.isSome l.line

/-- The line that row `c` stands for is removed from the input buffer, if the oldest line is one (R170, n7). -/
def OperatorLine.takeLine (o : OperatorLine) (c : Instr) : OperatorLine :=
  if headRow o = some c then { o with lines := o.lines.drop 1 }.afterTake else o

/-! ## Output (R169, R170) -/

/-- Carriage return and line feed (R167). -/
def crlf : Text := [0x0D, 0x0A]

/-- Lines placed at the tail of the output buffer while they fit; the result and the lines that still wait (R169, n9). -/
def placeLines : List OutLine → Text → Text × List OutLine
  | [], out => (out, [])
  | l :: ls, out =>
    if out.length + l.text.length + 2 ≤ Config.outputCapacity then placeLines ls (out ++ l.text ++ crlf) else (out, l :: ls)

/-- The lines that answer a command among waiting ones: those that report no self-test. The last taken command has placed its answer when there is none (R170). -/
def answering (ls : List OutLine) : List OutLine := ls.filter fun l => !l.ofTest

/-- The last taken command has placed its answer in the output buffer, so that the next line may be taken; a TEST is over with its start, and its report may still wait (R170). -/
def OperatorLine.answered (o : OperatorLine) : Bool := (answering o.waiting).isEmpty

/-- A character is being sent whenever there is one and sending is not held (R169). -/
def OperatorLine.resume (o : OperatorLine) (ohold : Bool) : OperatorLine :=
  { o with sending := o.sending || (!o.output.isEmpty && !ohold) }

/-- A block has been started whose closing line still waits: the last answer line of those left is ".", and some of its lines have been placed, earlier or now (R177). -/
def blockUnderWay (wasOpen : Bool) (waited left : List OutLine) : Bool :=
  ((answering left).getLast?.map OutLine.text) == some [0x2E]
    && (wasOpen || decide ((answering left).length < (answering waited).length))

/-- The waiting lines placed as room allows. When the answer among them is placed, no response to an UNMASK is awaited any more (R177), and if it is a FETCH block, the characters up to the end of its closing line are counted (R162, R169). -/
def OperatorLine.flush (o : OperatorLine) (fetching ohold : Bool) : OperatorLine :=
  let p := placeLines o.waiting o.output
  let placed := (answering p.2).isEmpty
  { o with
    output := p.1
    waiting := p.2
    blockOpen := blockUnderWay o.blockOpen o.waiting p.2
    unmasking := if placed then none else o.unmasking
    fetchLeft := if fetching && o.fetchLeft.isNone && placed then some p.1.length else o.fetchLeft }.resume ohold

/-- Waiting lines placed, in the part (R169). -/
def flush (s : State) : State := s.withOl (s.ol.flush s.du.fetchRef.isSome s.pins.ohold)

/-- Lines are composed: they wait their turn and are placed as room allows (R169). -/
def compose (ls : List OutLine) (s : State) : State := flush (s.withOl { s.ol with waiting := s.ol.waiting ++ ls })

/-- The lines of an answer. -/
def answerLines (ls : List Text) : List OutLine := ls.map fun l => ⟨l, false⟩

/-- An answer to a command line is composed (R170). -/
def answer (ls : List Text) (s : State) : State := compose (answerLines ls) s

/-- A refusal (R170). -/
def refuse (r : RefusalCode) (s : State) : State := answer [r.line] s

/-- A success line of words (R170). -/
def reply (ws : List Text) (s : State) : State := answer [unwords ws] s

/-- A block: its header line, its content lines, and "." (R170). -/
def block (header : Text) (ls : List Text) (s : State) : State := answer (header :: ls ++ [[0x2E]]) s

/-! ## Before a command's own rule (R170) -/

/-- The phase is another than the one a command needs (R170). -/
def wrongPhase (need : Option Phase) (s : State) : Bool :=
  match need with
  | some p => decide (s.ol.phase ≠ p)
  | none => false

/-- A command line is taken: not while the last taken command's answer waits for room or a body is collected; then BUSY, STATE, and the command's own rule (R170). -/
def command (c : Instr) (need : Option Phase) (act : State → State) (s : State) : State :=
  if s.ol.answered && s.ol.post.isNone then
    let s := s.withOl (s.ol.takeLine c)
    if s.ol.selfTest.isSome then refuse .busy s
    else if wrongPhase need s then refuse .stateCode s
    else act s
  else s

/-- A command's own rule over its arguments: a form it does not allow is refused with SYNTAX (R170). -/
def withArgs {α : Type} (a : Option α) (act : α → State → State) (s : State) : State :=
  match a with
  | some x => act x s
  | none => refuse .syntaxCode s

/-- The SETUP commands of Table 11-1. -/
def setupNames : List Text :=
  [txt "CODE", txt "CALL", txt "CENTRE", txt "HOPS", txt "TIMING", txt "CLASS", txt "SPAN", txt "FAULTSEL", txt "TEST", txt "ONAIR"]

/-- The answer to a line that starts no command, by the first test that applies (R170). A TEST of another number is a command name with a wrong argument: STATE in LIVE, SYNTAX in SETUP (R173). -/
def decideUnknown (l : OpLine) (s : State) : State :=
  match words l.text with
  | [] => s
  | w :: _ =>
    if l.overrun then refuse .overrun s
    else if l.tooLong then refuse .length s
    else if s.ol.selfTest.isSome then refuse .busy s
    else if setupNames.contains (upperText w) && s.isLive then refuse .stateCode s
    else refuse .syntaxCode s

end Sys2Proof.Machine
end

