-- ==== Sys2Proof/Machine/Bits.lean ====
section
/-! DEFINITION. The modem's bits: what an RXD sample does at the assembler (R35 to R40), and TXD at a falling edge of TXC in KEYUP, SENDING and TRAILER (R42 to R44). -/

namespace Sys2Proof.Machine

/-! ## Receiving (R35 to R40) -/

/-- The hunting register is emptied (R35). -/
def ModemPort.emptyRegister (m : ModemPort) : ModemPort := { m with huntBits := 0, huntCount := 0 }

/-- The assembler enters `a` with an empty register; the byte being formed is given up (R34, R37 to R40, R48). That the register is empty in OFF too is the model's choice (n5). -/
def ModemPort.hunt (m : ModemPort) (a : Assembler) : ModemPort := { m with assembler := a, huntBits := 0, huntCount := 0, forming := [] }

/-- The EMPTY buffer that a sync claims: buffer 0 before buffer 1 (R36). -/
def ModemPort.emptyBuffer (m : ModemPort) : Option (Fin 2) := (List.finRange 2).find? fun b => look m.buffers b == .empty

/-- The bytes stored in a buffer that is being filled. -/
def RxBuffer.stored : RxBuffer → List Byte
  | .filling bytes => bytes
  | _ => []

/-- What an RXD sample brings. -/
inductive Received where
  /-- No event. -/
  | nothing
  /-- The sync is found and a buffer claimed (R36). -/
  | claimed
  /-- The sync is found and no buffer is EMPTY (R40). -/
  | overrun
  /-- Byte 4 of a frame being gathered is above 73 (R37). -/
  | abandoned
  /-- The last byte of the check has been stored (R38). -/
  | completed
  /-- Byte 4 of a skipped frame is above 73 (R40). -/
  | skipCut
  /-- The last byte of a skipped frame has passed (R40). -/
  | passed
deriving DecidableEq, Repr

/-- The sync is found: a buffer is claimed, or the frame is skipped (R36, R40). -/
def ModemPort.findSync (m : ModemPort) : ModemPort × Received :=
  match m.emptyBuffer with
  | some b => ({ m with assembler := .gathering b, buffers := place m.buffers b (.filling []) }, .claimed)
  | none => ({ m with assembler := .skipping 0 }, .overrun)

/-- A sample shifted into the hunting register (R35). -/
def ModemPort.shiftIn (m : ModemPort) (b : Bool) : ModemPort :=
  { m with huntBits := m.huntBits <<< 1 ||| (if b then 1 else 0), huntCount := min 24 (m.huntCount + 1) }

/-- The last 24 bits received since the register was emptied are the sync (R35). -/
def ModemPort.synced (m : ModemPort) : Bool := m.huntCount == 24 && m.huntBits == Config.sync

/-- A sample taken in HUNTING (R35). -/
def ModemPort.huntBit (m : ModemPort) (b : Bool) : ModemPort × Received :=
  if (m.shiftIn b).synced then (m.shiftIn b).findSync else (m.shiftIn b, .nothing)

/-- The byte that eight bits form, the first one its bit 0 (R37). -/
def byteOf : List Bool → Byte
  | [] => 0
  | b :: rest => byteOf rest <<< 1 ||| (if b then 1 else 0)

/-- A byte of the frame gathered into buffer `k` is stored: the frame is abandoned for its length, completes with the QUAL sample `q`, or goes on (R33, R37, R38). -/
def ModemPort.gatherByte (m : ModemPort) (k : Fin 2) (q : Nibble) (x : Byte) : ModemPort × Received :=
  let bytes := (look m.buffers k).stored ++ [x]
  if 5 ≤ bytes.length ∧ Config.maxPayload < payloadLength bytes then
    ({ m.hunt .hunting with buffers := place m.buffers k .empty }, .abandoned)
  else if bytes.length = 7 + payloadLength bytes then
    ({ m.hunt .hunting with
      buffers := place m.buffers k (.full bytes q)
      fullOrder := m.fullOrder ++ [k] }, .completed)
  else ({ m with forming := [], buffers := place m.buffers k (.filling bytes) }, .nothing)

/-- The length register after byte number `n` of a skipped frame: byte 4 is read into it (R40). -/
def ModemPort.readLength (m : ModemPort) (n : Nat) (x : Byte) : Byte := if n = 4 then x else m.lengthReg

/-- A byte of a skipped frame passes after `n` others: byte 4 is read, a long frame ends the skip, and so does the last byte (R40). -/
def ModemPort.skipByte (m : ModemPort) (n : Nat) (x : Byte) : ModemPort × Received :=
  let len := m.readLength n x
  if 4 ≤ n ∧ Config.maxPayload < len.toNat then ({ m.hunt .hunting with lengthReg := len }, .skipCut)
  else if n + 1 = 7 + len.toNat then ({ m.hunt .hunting with lengthReg := len }, .passed)
  else ({ m with assembler := .skipping (n + 1), forming := [], lengthReg := len }, .nothing)

/-- A bit of a frame under reception: it joins the byte being formed, or ends it, and `whole` takes the byte (R37). -/
def ModemPort.formByte (m : ModemPort) (b : Bool) (whole : Byte → ModemPort × Received) : ModemPort × Received :=
  if m.forming.length < 7 then ({ m with forming := m.forming ++ [b] }, .nothing) else whole (byteOf (m.forming ++ [b]))

/-- MP samples RXD at a rising edge of RXC, with QUAL3..0 at `q` (R32, R35, R37, R40). -/
def ModemPort.sample (q : Nibble) (m : ModemPort) (b : Bool) : ModemPort × Received :=
  match m.assembler with
  | .off => (m, .nothing)
  | .hunting => m.huntBit b
  | .gathering k => m.formByte b (m.gatherByte k q)
  | .skipping n => m.formByte b (m.skipByte n)

/-- MP takes samples one after another, up to the first that brings an event: the port and the event then, and the samples left. -/
def ModemPort.take (q : Nibble) : List Bool → ModemPort → ModemPort × Received × List Bool
  | [], m => (m, .nothing, [])
  | b :: rest, m =>
    match m.sample q b with
    | (m, .nothing) => m.take q rest
    | (m, e) => (m, e, rest)

/-- What a frame being gathered leaves: its buffer returns to EMPTY (R34, R36). -/
def ModemPort.dropGathering (m : ModemPort) : ModemPort :=
  match m.assembler with
  | .gathering b => { m with buffers := place m.buffers b .empty }
  | _ => m

/-! ## Transmitting (R42 to R44) -/

/-- The bits of an outgoing frame in the order sent, sync first (R14, R43). -/
def TxFrame.bits (f : TxFrame) : List Bool := frameBits f.bytes

/-- The next bit of frame `f` is on TXD (R43). -/
def ModemPort.driveFrame (m : ModemPort) (f : TxFrame) : ModemPort :=
  { m with key := .sending, txd := f.bits.getD f.position true, frame := some { f with position := f.position + 1 } }

/-- The next alternating bit of KEYUP is on TXD (R42). -/
def ModemPort.alternate (m : ModemPort) : ModemPort := { m with txd := !m.txd }

/-- The trailer bit after `n` others is on TXD (R44). -/
def ModemPort.driveTrailer (m : ModemPort) (n : Nat) : ModemPort := { m with key := .trailer (n + 1), txd := true }

end Sys2Proof.Machine
end

