-- ==== Sys2Proof/Machine/Contention.lean ====
section
/-! DEFINITION. The Relay Contention Unit: progress, the contention count, candidacy, overheard relays and stand-down, for messages and receipts (Chapter 8). -/

namespace Sys2Proof.Machine

/-! ## The contention count (R120, R122) -/

/-- Progress g, unknown when either distance is 15 (R120). -/
def progress (ds dOwn : Nibble) : Option Int :=
  if ds = 15 ∨ dOwn = 15 then none else some ((ds.toNat : Int) - (dOwn.toNat : Int))

/-- An unknown progress passes, a negative one does not (R119, condition 5). -/
def notBackward : Option Int → Bool
  | some g => decide (0 ≤ g)
  | none => true

/-- Base slots of a class (Table 1-4). -/
def MsgClass.base : MsgClass → Nat
  | .life => 0
  | .urgent => 4
  | .welfare => 10
  | .routine => 16

/-- The progress term G (Table 8-3). -/
def progressTerm : Option Int → Nat
  | some g => (12 - 3 * g).toNat
  | none => 12

/-- The dither X of a station and a serial (R122, stage 5). -/
def dither (c : Code) (n : Serial) : Nat := (c.setWidth 16 ^^^ n ^^^ (n >>> 8)).toNat % 8

/-- The contention count S in its stages (R122). -/
def contentionCount (p : MsgClass) (q : Nibble) (g : Option Int) (u : Nat) (c : Code) (n : Serial) : Nat :=
  let s0 := p.base + q.toNat / 2 + progressTerm g
  let s1 := s0 * (100 + u) / 100
  min 63 (s1 + dither c n)

/-! ## Candidacy (R119) -/

/-- REDUNDANCY of a class (R7). -/
def redundancy (s : State) (p : MsgClass) : Nat := (s.ol.classes.get p).redundancy

/-- Own distance to a code, asked of the Distance Table (R115). -/
def askDistance (x : Code) (s : State) : Nibble × State :=
  ((s.dt.query s.ol.ownCode x).1, s.withDt (s.dt.query s.ol.ownCode x).2)

/-- What a completion decision weighs (R119). -/
structure Decision where
  cls       : MsgClass
  dest      : Code
  serial    : Serial
  effective : Nat
  heard     : List Code
  dist      : Nibble
  q         : Nibble
deriving DecidableEq, Repr

/-- The five conditions of Table 8-1, with the own distance already asked. -/
def candidate (d : Decision) (dOwn : Nibble) (s : State) : Bool :=
  decide (2 ≤ d.effective) && !addressedHere s d.dest && decide (d.heard.length < redundancy s d.cls)
    && (!s.ms.congested || d.cls == .life || d.cls == .urgent) && notBackward (progress d.dist dOwn)

/-- The completion decision: the own distance is asked once; a candidate gets its contention count (R119 to R121). -/
def decideRelay (d : Decision) (s : State) : Option Nat × State :=
  let a := askDistance d.dest s
  if candidate d a.1 a.2 then
    (some (contentionCount d.cls d.q (progress d.dist a.1) s.ofm.u (s.ol.ownCode.getD 0) d.serial), a.2)
  else (none, a.2)

/-! ## Overheard relays (R125 to R127) -/

/-- The tests on flag, hops used and distance of an overheard frame (Table 8-4). -/
def qualifies (congested : Bool) (used dist : Nibble) (atLeast : Nat) (dOwn : Nibble) : Bool :=
  !congested && decide (atLeast ≤ used.toNat) && noFarther dist dOwn

/-- A sender joins a heard-from set of at most 3 codes (R126). -/
def addHeard (l : List Code) (c : Code) : List Code := if l.contains c || decide (3 ≤ l.length) then l else l ++ [c]

/-- The states in which a stand-down is tested (R127). -/
def Slot.mayStandDown (sl : Slot) : Bool :=
  sl.state == .held || (sl.state == .queued && sl.resumeAt == 0 && sl.relayOnly)

/-- A copy of the message of slot `i`, overheard while the slot is ASSEMBLING, HELD, QUEUED or ON-AIR (R125 to R127). -/
def overheard (i : Fin 64) (sl : Slot) (h : Header) (t : Traffic) (s : State) : State :=
  if sl.originated then s
  else
    let a := askDistance sl.dest s
    if qualifies h.congested t.used h.dist (sl.used.toNat + 1) a.1 then
      let heard := addHeard sl.heard h.sender
      let s := modSlot i (fun sl => { sl with heard := heard }) a.2
      if sl.mayStandDown && decide (redundancy s sl.cls ≤ heard.length) then endRelayWork i s else s
    else a.2

/-! ## A stand-down and an eviction together (R128) -/

/-- A copy overheard at an own distance `dOwn` makes the slot stand down (R125 to R127). -/
def Slot.standsDown (sl : Slot) (h : Header) (t : Traffic) (dOwn : Nibble) (s : State) : Bool :=
  sl.mayStandDown && qualifies h.congested t.used h.dist (sl.used.toNat + 1) dOwn
    && decide (redundancy s sl.cls ≤ (addHeard sl.heard h.sender).length)

/-- Those of the slots that could stand down, as they stand, are noted as evicted at this moment (Table 8-6, n31). -/
def Store.noteVictims (m : Store) (now : Nat) (victims : List (Fin 64)) : Store :=
  match victims.filterMap (fun i => (look m.slots i).filter Slot.mayStandDown) with
  | [] => m
  | l => { m with evictedAt := now, evicted := (if m.evictedAt = now then m.evicted else []) ++ l }

/-- A copy that would have made its slot stand down comes together with the eviction of that slot, the eviction taken first (Table 8-6, n31). -/
def standDownTooLate (h : Header) (t : Traffic) (s : State) : Bool :=
  s.ms.evictedAt == s.now && s.ms.evicted.any fun sl => sl.id == t.id && sl.standsDown h t (askDistance sl.dest s).1 s

/-! ## Receipts (R130 to R133) -/

/-- A RECEIPT overheard against the pool record of its identity (R133). -/
def overheardReceipt (rec : Receipt) (h : Header) (r : ReceiptFrame) (s : State) : State :=
  let a := askDistance r.origin s
  if qualifies h.congested r.used h.dist rec.used.toNat a.1 then
    let heard := addHeard rec.heard h.sender
    if redundancy a.2 rec.cls ≤ heard.length then withPool (poolWithout rec.id a.2.du.pool) a.2
    else a.2.withDu { a.2.du with pool := a.2.du.pool.map fun x => if x.id = rec.id then { x with heard := heard } else x }
  else a.2

/-- The five conditions of Table 8-7. `before` is the entry as found at lookup. -/
def receiptCandidate (before : Option Entry) (h : Header) (r : ReceiptFrame) (dOwn : Nibble) (s : State) : Bool :=
  (match before with
    | some e => (e.disposition == .relayed || e.disposition == .stored) && !e.receiptRelayed
    | none => false)
    && decide (2 ≤ effectiveBudget r.budget r.used) && decide (s.ol.ownCode ≠ some r.origin)
    && notBackward (progress h.dist dOwn)

/-- The receipt handed to RCU: an overheard relay of a pooled record, or a candidacy (R130, R131). -/
def contendReceipt (before : Option Entry) (h : Header) (r : ReceiptFrame) (q : Nibble) (s : State) : State :=
  match s.du.pool.find? fun x => x.id == r.id with
  | some rec => overheardReceipt rec h r s
  | none =>
    let a := askDistance r.origin s
    if receiptCandidate before h r a.1 a.2 then
      let cls := MsgClass.ofBits r.cls
      let n := contentionCount cls q (progress h.dist a.1) s.ofm.u (s.ol.ownCode.getD 0) r.serial
      admitReceipt ⟨r.id, cls, r.deliverer, BitVec.ofNat 4 (effectiveBudget r.budget r.used - 1), r.used + 1,
        .waiting (s.now + n * s.ol.settings.slot), [], false⟩ a.2
    else a.2

end Sys2Proof.Machine
end

