-- ==== Sys2Proof/Machine/Sending.lean ====
section
/-! DEFINITION. Composing frames (R14, R18 to R21), keying, choosing what follows a frame, the end and the cut of a train (R42 to R48, R84, R142 to R147, R155). -/

namespace Sys2Proof.Machine

/-! ## Composition (R18 to R21) -/

/-- The common header of an outgoing frame (R18). -/
def ownHeader (kind : Nibble) (dist : Nibble) (s : State) : Header :=
  ⟨kind, s.ol.centre, s.ms.congested, s.ol.ownCode.getD 0, s.dt.ownTier, dist⟩

/-- A frame as MP takes it, with its sync and none of its bits driven (R14). -/
def outgoing (item : TxItem) (h : Header) (p : List Byte) : TxFrame := ⟨item, syncBytes ++ frameBytes h p, h.dist, 0⟩

/-- A class as the two-bit field (R15). -/
def MsgClass.bits (c : MsgClass) : BitVec 2 := BitVec.ofNat 2 c.num

/-- Segment `index` as the slot's block holds it (R20); a segment not held has no data. -/
def Store.segment (m : Store) (sl : Slot) (index : Fin 8) : List Byte :=
  match look sl.blocks index with
  | some b => (look m.blocks b).toList.take (segmentSize sl.bodyLength sl.count index.val)
  | none => []

/-- Hop budget sent (R20): as stored for an originated slot, else the effective budget less one. -/
def Slot.budgetSent (sl : Slot) : Nat := if sl.originated then sl.budget.toNat else sl.effective - 1

/-- Hops used sent (R20). -/
def Slot.usedSent (sl : Slot) : Nibble := if sl.originated then sl.used else sl.used + 1

/-- The TRAFFIC payload fields of a segment (R20). -/
def trafficOf (sl : Slot) (index : Fin 8) (data : List Byte) : Traffic where
  origin := sl.id.origin
  cls := sl.cls.bits
  serial := sl.id.serial
  dest := sl.dest
  budget := BitVec.ofNat 4 sl.budgetSent
  used := sl.usedSent
  index := BitVec.ofNat 3 index.val
  bodyLength := BitVec.ofNat 10 sl.bodyLength
  countM1 := BitVec.ofNat 3 (sl.count - 1)
  data := data

/-- A TRAFFIC frame is built; the own distance to the destination is asked (R19, R20). -/
def composeTraffic (i : Fin 64) (sl : Slot) (index : Fin 8) (s : State) : TxFrame × State :=
  let a := askDistance sl.dest s
  (outgoing (.traffic i index) (ownHeader 1 a.1 a.2) (trafficBytes (trafficOf sl index (s.ms.segment sl index))), a.2)

/-- A RECEIPT frame is built; the own distance to the origin is asked (R19, R21). -/
def composeReceipt (r : Receipt) (s : State) : TxFrame × State :=
  let a := askDistance r.id.origin s
  (outgoing (.receipt r.id) (ownHeader 2 a.1 a.2)
    (receiptBytes ⟨r.id.origin, r.cls.bits, r.id.serial, r.deliverer, r.budget, r.used⟩), a.2)

/-- A BEACON frame is built (R19, R21). -/
def composeBeacon (s : State) : TxFrame := outgoing .beacon (ownHeader 3 15 s) (s.ol.callsign.getD [])

/-! ## The port (R34, R42, R44, R45, R48) -/

/-- MP takes a key request with the first frame (R42); the receiver goes OFF (R34) and the transmit clock watch starts (R47). -/
def keyPort (f : TxFrame) (s : State) : State :=
  s.withMp { (s.mp.dropGathering.hunt .off) with
    key := .keyup
    txd := true
    frame := some f
    keyupEnd := some (s.now + s.ol.settings.keyup)
    limitEnd := some (s.now + s.ol.settings.txlimit * 1000)
    txWatch := some s.now }

/-- PTT is deasserted: UNKEYED, TXD held at 1, timers stopped, the receiver hunting again in LIVE (R34, R44, R45, R48); the transmit clock condition ends (R47). -/
def unkey (s : State) : State :=
  let m := s.mp.hunt (if s.ol.phase = .live then .hunting else .off)
  reportClocks s.ofm.rxLoss false
    (s.withMp { m with key := .unkeyed, txd := true, frame := none, keyupEnd := none, limitEnd := none, txWatch := none })

/-! ## Choosing frames (R142, R143, R145) -/

/-- The next frame handed to MP in SENDING: the next falling edge of TXC drives bit 0 of its sync (R43). -/
def sendFrame (f : TxFrame) (s : State) : State := s.withMp { s.mp with frame := some f }

/-- A record named for a frame (R143). -/
def nameReceipt (id : Identity) (pool : List Receipt) : List Receipt :=
  pool.map fun r => if r.id = id then { r with named := true } else r

/-- A receipt chosen: its record is named and its frame built (R143). -/
def takeReceipt (r : Receipt) (s : State) : TxFrame × State :=
  composeReceipt r (s.withDu { s.du with pool := nameReceipt r.id s.du.pool })

/-- The slot at the head of the highest queue becomes the train's message: it leaves its queue and is ON-AIR (R142). -/
def takeMessage (s : State) : State :=
  match headSlot s.ac.queues with
  | none => s
  | some i =>
    match look s.ms.slots i with
    | none => s
    | some sl =>
      modSlot i (fun sl => { sl with state := .onAir }) (s.withAc { s.ac with queues := leave s.ac.queues sl.cls i })

/-- The train's message, if it has one. -/
def trainMessage (s : State) : Option (Fin 64 × Slot) :=
  s.ms.onAir.bind fun i => (look s.ms.slots i).map fun sl => (i, sl)

/-- The first frame of the train (R142); none when nothing is left to compose. -/
def firstFrame (s : State) : Option (TxFrame × State) :=
  if s.ac.identDue then some (composeBeacon s, s)
  else
    match trainMessage s with
    | some (i, sl) => some (composeTraffic i sl sl.resumeAt s)
    | none => (firstReceipt s.du.pool).map fun r => takeReceipt r s

/-- AC keys: the message is taken, the first frame composed, and MP keyed (R142). -/
def keyTrain (s : State) : State :=
  let s := takeMessage (s.withAc { s.ac.rest .keyed with sent := 0 })
  match firstFrame s with
  | some (f, s) => keyPort f s
  | none => s.withAc (s.ac.rest .idle)

/-- Pre-emption: a higher class has a non-empty queue and PREEMPT ON (R145). -/
def preempts (p : MsgClass) (s : State) : Bool :=
  s.ac.queues.nonEmpty.any fun c => decide (c.num < p.num) && (c == .life || (s.ol.classes.get c).preempt)

/-- What follows a frame (R143). -/
inductive Next where
  | endOfTrain
  | segment (i : Fin 64) (sl : Slot)
  | receipt (r : Receipt)
deriving DecidableEq, Repr

/-- The first row of R143 that applies; `s.ac.sent` already counts the frame just sent. -/
def chooseNext (s : State) : Next :=
  if s.ol.settings.train ≤ s.ac.sent then .endOfTrain
  else
    match trainMessage s with
    | some (i, sl) => if preempts sl.cls s then .endOfTrain else .segment i sl
    | none =>
      match firstReceipt s.du.pool with
      | some r => .receipt r
      | none => .endOfTrain

/-- End of train: a slot with segments left returns to its head, and the trailer is to follow (R43, R144). -/
def endTrain (s : State) : State :=
  let s := requeueOnAir true s
  s.withMp { s.mp with frame := none }

/-- What AC chose is done (R143). -/
def follow (s : State) : State :=
  match chooseNext s with
  | .endOfTrain => endTrain s
  | .segment i sl => let c := composeTraffic i sl sl.resumeAt s; sendFrame c.1 c.2
  | .receipt r => let c := takeReceipt r s; sendFrame c.1 c.2

/-! ## Frame-sent reports (R43, R84, R143, R155) -/

/-- A timer of `minutes`, not running at 0 (R147). -/
def timerFrom (now minutes : Nat) : Option Nat := if minutes = 0 then none else some (now + minutes * Config.minute)

/-- A BEACON has been sent (R143, R147). -/
def beaconSent (s : State) : State :=
  s.withAc { s.ac with
    identDue := false
    beaconDue := false
    identTimer := timerFrom s.now s.ol.settings.ident
    beaconTimer := timerFrom s.now s.ol.settings.beacon }

/-- A named receipt has been sent: its record leaves the pool and receipt relayed becomes yes (R164). -/
def receiptSent (id : Identity) (s : State) : State :=
  let s := withPool (s.du.pool.filter fun r => !(r.id == id && r.named)) s
  s.withIdt (s.idt.setReceiptRelayed id)

/-- Echo wait of a slot in milliseconds (R155). -/
def echoWait (sl : Slot) (st : Settings) : Nat :=
  (if sl.originated then min Config.echoCap (st.echo * 2 ^ (st.retry - sl.retries)) else st.echo) * 1000

/-- The last segment has been sent: AWAIT, and the budget sent weighed (R84, R143, R155). -/
def lastSegmentSent (i : Fin 64) (dist : Nibble) (s : State) : State :=
  let s := modSlot i (fun sl => { sl with state := .await, resumeAt := 0, sentDist := some dist }) s
  match look s.ms.slots i with
  | none => s
  | some sl =>
    if sl.budgetSent ≤ 1 then if sl.originated then retireOriginated i s else endRelayWork i s
    else modSlot i (fun sl => { sl with deadline := some (s.now + echoWait sl s.ol.settings) }) s

/-- A TRAFFIC frame has been sent (R84). -/
def segmentSent (i : Fin 64) (index : Fin 8) (dist : Nibble) (s : State) : State :=
  match look s.ms.slots i with
  | none => s
  | some sl =>
    if sl.state ≠ .onAir then s
    else if index.val + 1 < sl.count then modSlot i (fun sl => { sl with resumeAt := Fin.ofNat 8 (index.val + 1) }) s
    else lastSegmentSent i dist s

/-- The effects of a frame-sent report (R143). -/
def reportSent (f : TxFrame) (s : State) : State :=
  match f.item with
  | .beacon => beaconSent s
  | .receipt id => receiptSent id s
  | .traffic i index => segmentSent i index f.dist s

/-- The frame is counted against the train (R143). -/
def countSent (s : State) : State := s.withAc { s.ac with sent := s.ac.sent + 1 }

/-! ## Cuts (R146) -/

/-- Records named for the frame under way can be named again (R146). -/
def unnameReceipts (s : State) : State :=
  s.withDu { s.du with pool := s.du.pool.map fun r => { r with named := false } }

/-- A train is cut: MP is unkeyed, the ON-AIR slot returns to its head with resume index 0, a cut receipt stays READY (R45, R48, R87, R146). -/
def cutTrain (s : State) : State := unnameReceipts (requeueOnAir false (unkey s))

end Sys2Proof.Machine
end

