-- ==== Sys2Proof/Machine/Line.lean ====
section
/-! DEFINITION. Meanings of the reset and of the operator line's own events: RESET, characters in and out, OHOLD, placing of waiting output, notices, lines that start no command (R167 to R170, R177, R178). -/

namespace Sys2Proof.Machine

/-- What a meaning answers. -/
abbrev Result := Host.Outcome State Fault Refusal

/-! ## RESET (R49, R66, R89, R104, R118, R135, R152, R166, R178) -/

/-- The part right after a reset at `s`: every block at its reset state; ORATE sampled; the blocks' bytes, the input levels, the time and the queue stay (n5, n6, n21). -/
def resetFrom (orate : BitVec 2) (s : State) : State where
  now := s.now
  pins := s.pins
  mp := ModemPort.reset
  ofm := Monitor.reset
  fh := FrameHandler.reset
  ms := { Store.reset with blocks := s.ms.blocks }
  idt := IdTable.reset
  dt := DistTable.reset
  ac := AccessController.reset
  du := DeliveryUnit.reset
  ol := { OperatorLine.reset with rate := orate, sending := !s.pins.ohold }
  pending := s.pending

/-- RESET (R178). -/
def execReset (orate : BitVec 2) (s : State) : Result := .next (resetFrom orate s)

/-! ## Characters -/

/-- CHARACTER_RECEIVED (R167, R168). -/
def execCharacterReceived (ch : Byte) (framingError : Bool) (s : State) : Result :=
  .next (s.withOl (s.ol.receive ch framingError))

/-- OHOLD_ASSERTED: the next character is not begun (R169). -/
def execOholdAsserted (s : State) : Result := .next (s.withPins { s.pins with ohold := true })

/-- OHOLD_DEASSERTED: sending resumes (R169). -/
def execOholdDeasserted (s : State) : Result :=
  .next ((s.withPins { s.pins with ohold := false }).withOl (s.ol.resume false))

/-- The FETCH completes (R162). -/
def completeFetch (s : State) : State :=
  match s.du.fetchRef with
  | none => s
  | some i =>
    let s := modSlot i (fun sl => { sl with unread := false }) (s.withDu { s.du with fetchRef := none })
    match look s.ms.slots i with
    | some sl => if sl.state = .inbox then freeSlot i .delivered s else s
    | none => s

/-- `n` characters of the output buffer have been sent; the next is begun unless OHOLD is asserted (R169). -/
def OperatorLine.sent (o : OperatorLine) (n : Nat) (ohold : Bool) : OperatorLine :=
  let rest := o.output.drop n
  { o with output := rest, sending := !rest.isEmpty && !ohold, fetchLeft := o.fetchLeft.map fun k => k - n }

/-- The FETCH completes once the last character of its closing line has been sent (R162). -/
def settleFetch (s : State) : State :=
  if s.ol.fetchLeft = some 0 then completeFetch (s.withOl { s.ol with fetchLeft := none }) else s

/-- The character being sent ends (R169). -/
def characterSent (s : State) : State :=
  if s.ol.sending then settleFetch (s.withOl (s.ol.sent 1 s.pins.ohold)) else s

/-- CHARACTER_SENT (R169). -/
def execCharacterSent (s : State) : Result := .next (characterSent s)

/-- OUTPUT_PLACED: waiting lines are placed as room allows (R169). -/
def execOutputPlaced (s : State) : Result := .next (flush s)

/-! ## Notices (R177) -/

/-- The kinds that are pending and not masked, in the order of emission. -/
def OperatorLine.readyNotices (o : OperatorLine) : List Notice := noticeKinds.filter fun k => o.notices.has k && !o.masked.has k

/-- A notice line. -/
def Notice.line (k : Notice) : Text := 0x2A :: k.word

/-- The kinds that can be emitted now, in order: not one whose UNMASK response still waits (R177). -/
def OperatorLine.nextNotices (o : OperatorLine) : List Notice := o.readyNotices.filter fun k => o.unmasking != some k

/-- No block is under way, and no waiting line fits, which would be placed first (R177, n9). -/
def OperatorLine.noticeMayPass (o : OperatorLine) : Bool :=
  !o.blockOpen &&
    match o.waiting with
    | l :: _ => decide (Config.outputCapacity < o.output.length + l.text.length + 2)
    | [] => true

/-- The output buffer has room for the line of a kind (R177). -/
def OperatorLine.noticeFits (o : OperatorLine) (k : Notice) : Bool :=
  decide (o.output.length + k.line.length + 2 ≤ Config.outputCapacity)

/-- The notice that can be emitted now: the first kind whose line has room, if a notice may pass (R177). -/
def OperatorLine.emittable (o : OperatorLine) : Option Notice :=
  if o.noticeMayPass then o.nextNotices.find? o.noticeFits else none

/-- The first ready notice is emitted, if it can be (R177). -/
def emitNotice (s : State) : State :=
  match s.ol.emittable with
  | some k =>
    s.withOl ({ s.ol with
      notices := s.ol.notices.put k false
      output := s.ol.output ++ k.line ++ crlf }.resume s.pins.ohold)
  | none => s

/-- NOTICE_EMITTED (R177). -/
def execNoticeEmitted (s : State) : Result := .next (emitNotice s)

/-! ## A line that starts no command (R170) -/

/-- UNKNOWN_COMMAND; a line that does start a command is none (n3). -/
def unknownCommand (l : OpLine) (s : State) : State :=
  if s.ol.answered && s.ol.post.isNone && commandLine l == .unknownCommand l then
    decideUnknown l (s.withOl (s.ol.takeLine (.unknownCommand l)))
  else s

/-- UNKNOWN_COMMAND (R170). -/
def execUnknownCommand (l : OpLine) (s : State) : Result := .next (unknownCommand l s)

end Sys2Proof.Machine
end

