-- ==== Sys2Proof/Machine/Setup.lean ====
section
/-! DEFINITION. Meanings of the SETUP commands: CODE, CALL, CENTRE, HOPS, TIMING, CLASS, SPAN, FAULTSEL, TEST_1 to TEST_4 and ONAIR (R2, R3, R7, R58, R114, R171, R173, R174). -/

namespace Sys2Proof.Machine

/-- A SETUP command. -/
def setupCommand (c : Instr) (act : State → State) (s : State) : Result := .next (command c (some .setup) act s)

/-- CODE n becomes the own code (R2). -/
def codeRule (args : List Text) : State → State :=
  withArgs (codeArg args) fun n s => reply [txt "+CODE", decimal n.toNat] (s.withOl { s.ol with ownCode := some n })

/-- CODE (R2). -/
def execCode (args : List Text) (s : State) : Result := setupCommand (.code args) (codeRule args) s

/-- CALL text becomes the callsign (R2). -/
def callRule (args : List Text) : State → State :=
  withArgs (callArg args) fun t s => reply [txt "+CALL", t] (s.withOl { s.ol with callsign := some t })

/-- CALL (R2). -/
def execCall (args : List Text) (s : State) : Result := setupCommand (.call args) (callRule args) s

/-- CENTRE ON or OFF; own tier is recomputed (R3, R116). -/
def centreRule (args : List Text) : State → State :=
  withArgs (switchArg args) fun b s =>
    reply [txt "+CENTRE", onOff b] ((s.withOl { s.ol with centre := b }).withDt (s.dt.retier b))

/-- CENTRE (R3). -/
def execCentre (args : List Text) (s : State) : Result := setupCommand (.centre args) (centreRule args) s

/-- A setting takes a value (R171). -/
def setSetting (n : SettingName) (v : Nat) (s : State) : State :=
  s.withOl { s.ol with settings := s.ol.settings.set n (n.take v) }

/-- HOPS n (R8, R171). -/
def hopsRule (args : List Text) : State → State :=
  withArgs (oneNumber args) fun v s =>
    reply ([txt "+HOPS", decimal (SettingName.hops.take v)] ++ clampedWord (SettingName.hops.take v != v)) (setSetting .hops v s)

/-- HOPS (R171). -/
def execHops (args : List Text) (s : State) : Result := setupCommand (.hops args) (hopsRule args) s

/-- TIMING name value (R171). -/
def timingRule (args : List Text) : State → State :=
  withArgs (timingArgs args) fun nv s =>
    reply ([txt "+TIMING", nv.1.word, decimal (nv.1.take nv.2)] ++ clampedWord (nv.1.take nv.2 != nv.2)) (setSetting nv.1 nv.2 s)

/-- TIMING (R171). -/
def execTiming (args : List Text) (s : State) : Result := setupCommand (.timing args) (timingRule args) s

/-- The settings of a class after CLASS: PREEMPT of LIFE stays ON, REDUNDANCY is clamped to 1-3 (R7). -/
def ClassSetting.take (old : ClassSetting) (c : MsgClass) (p : Option Bool) (r : Option Nat) : ClassSetting where
  preempt := c == .life || p.getD old.preempt
  redundancy := match r with
    | some n => clamp 1 3 n
    | none => old.redundancy

/-- A value taken differs from the value given (R7). -/
def classChanged (new : ClassSetting) (p : Option Bool) (r : Option Nat) : Bool :=
  p.any (fun b => b != new.preempt) || r.any (fun n => n != new.redundancy)

/-- The words that show a class's settings (R7). -/
def classWords (c : MsgClass) (x : ClassSetting) : List Text :=
  [c.word, txt "PREEMPT", onOff x.preempt, txt "REDUNDANCY", decimal x.redundancy]

/-- CLASS (R7). -/
def classRule (args : List Text) : State → State :=
  withArgs (classArgs args) fun a s =>
    let new := (s.ol.classes.get a.1).take a.1 a.2.1 a.2.2
    reply (txt "+CLASS" :: classWords a.1 new ++ clampedWord (classChanged new a.2.1 a.2.2))
      (s.withOl { s.ol with classes := s.ol.classes.set a.1 new })

/-- CLASS (R7). -/
def execClass (args : List Text) (s : State) : Result := setupCommand (.classCmd args) (classRule args) s

/-- SPAN i base k distance (R114). -/
def spanRule (args : List Text) : State → State :=
  withArgs (spanArgs args) fun a s =>
    let k := clamp 2 10 a.2.2.1
    let d := clamp 1 14 a.2.2.2
    let base := clearLow k a.2.1
    let changed := k != a.2.2.1 || d != a.2.2.2 || base != a.2.1
    reply ([txt "+SPAN", decimal a.1.val, decimal base.toNat, decimal k, decimal d] ++ clampedWord changed)
      (s.withDt { s.dt with spans := place s.dt.spans a.1 (some ⟨base, k, BitVec.ofNat 4 d⟩) })

/-- SPAN (R114). -/
def execSpan (args : List Text) (s : State) : Result := setupCommand (.span args) (spanRule args) s

/-- The select words of a fault that are set, always in the order NOTIFY, FREEZE, RESTART, whatever the order typed (R58, R65; the order is the model's choice, n8). -/
def FaultRecord.selects (r : FaultRecord) : List Text :=
  (if r.notify then [txt "NOTIFY"] else []) ++ (if r.freeze then [txt "FREEZE"] else [])
    ++ (if r.restart then [txt "RESTART"] else [])

/-- FAULTSEL: the words named replace the fault's selects (R58). -/
def faultselRule (args : List Text) : State → State :=
  withArgs (faultselArgs args) fun a s =>
    let r := { s.ofm.faults.get a.1 with notify := a.2.1, freeze := a.2.2.1, restart := a.2.2.2 }
    reply (txt "+FAULTSEL" :: a.1.word :: r.selects) (s.withOfm { s.ofm with faults := s.ofm.faults.set a.1 r })

/-- FAULTSEL (R58). -/
def execFaultsel (args : List Text) (s : State) : Result := setupCommand (.faultsel args) (faultselRule args) s

/-! ## Self-tests start (R173) -/

/-- TEST n starts the test and answers nothing yet (R170, R173). -/
def testRule (t : SelfTest) (args : List Text) : State → State :=
  withArgs (noArgs args) fun _ s => s.withOl { s.ol with selfTest := some t }

/-- TEST_1 (R50, R173). -/
def execTest1 (args : List Text) (s : State) : Result := setupCommand (.test1 args) (testRule .loopback args) s

/-- TEST_2 (R31, R173). -/
def execTest2 (args : List Text) (s : State) : Result := setupCommand (.test2 args) (testRule .frames args) s

/-- TEST_3 (R103, R173). -/
def execTest3 (args : List Text) (s : State) : Result := setupCommand (.test3 args) (testRule .identities args) s

/-- TEST_4 (R88, R173). -/
def execTest4 (args : List Text) (s : State) : Result := setupCommand (.test4 args) (testRule .store args) s

/-! ## ONAIR (R174) -/

/-- The Modem Port at ONAIR: the receiver is enabled, and the receive clock watch starts if DCD is asserted (R34, R46). -/
def onairMp (s : State) : State :=
  s.withMp { s.mp.hunt .hunting with rxWatch := if s.pins.dcd then some s.now else none }

/-- The Monitor at ONAIR: the first window starts with a zero history (R51, R54). -/
def onairOfm (s : State) : State :=
  s.withOfm { s.ofm with history := zeroHistory, window := some (freshWindow s.pins.dcd s.now s.ol.settings.window) }

/-- The two tables at ONAIR: their minute events start (R100, R111). -/
def onairTables (s : State) : State :=
  (s.withIdt { s.idt with minuteAt := some (s.now + Config.minute) }).withDt
    { s.dt with minuteAt := some (s.now + Config.minute) }

/-- The Access Controller at ONAIR: generator, ident-due, timers, listening period (R141, R147, R149). -/
def onairAc (own : Code) (s : State) : State :=
  s.withAc { s.ac with
    generator := some (own.setWidth 16)
    identDue := true
    beaconDue := false
    identTimer := timerFrom s.now s.ol.settings.ident
    beaconTimer := timerFrom s.now s.ol.settings.beacon
    listenEnd := some (s.now + Config.listening) }

/-- The part goes LIVE as station `own` with callsign `call` (R174). -/
def goLive (own : Code) (call : Text) (s : State) : State :=
  reply [txt "+ONAIR", decimal own.toNat, call]
    (onairAc own (onairTables (onairOfm (onairMp (s.withOl { s.ol with phase := .live })))))

/-- ONAIR is refused until code and callsign are set (R174). -/
def onairRule (args : List Text) : State → State :=
  withArgs (noArgs args) fun _ s =>
    match s.ol.ownCode, s.ol.callsign with
    | some c, some t => goLive c t s
    | _, _ => refuse .incomplete s

/-- ONAIR (R174). -/
def execOnair (args : List Text) (s : State) : Result := setupCommand (.onair args) (onairRule args) s

end Sys2Proof.Machine
end

