-- ==== Sys2Proof/Machine/Listings.lean ====
section
/-! DEFINITION. Meanings of STATUS, LIST, ROUTES and OUTCOMES, composed whole when taken (R86, R117, R165, R175, R176; layout n8). -/

namespace Sys2Proof.Machine

/-- One word if a condition holds, another if not. -/
def either (b : Bool) (yes no : String) : Text := if b then txt yes else txt no

/-- A word if a condition holds. -/
def whenSet (b : Bool) (w : String) : List Text := if b then [txt w] else []

/-! ## STATUS (R175, Table 11-4) -/

/-- PHASE line. UNSET stands once for each of the code and the callsign that is unset: the model's choice (n8). -/
def phaseLine (s : State) : Text :=
  unwords [txt "PHASE", either s.isLive "LIVE" "SETUP", (s.ol.ownCode.map fun c => decimal c.toNat).getD (txt "UNSET"),
    s.ol.callsign.getD (txt "UNSET"), txt "CENTRE", onOff s.ol.centre]

/-- COUNTERS line: the six values bare, in the order of Table 11-4, without their names: the model's choice (R30, n8). -/
def countersLine (f : FrameHandler) : Text :=
  unwords (txt "COUNTERS" ::
    ([f.accepted, f.checkfail, f.malformed, f.truncated, f.overrun, f.dropped].map fun x => decimal x.toNat))

/-- STORE line; the counts bare, without names: the model's choice (R86, n8). -/
def storeLine (m : Store) : Text :=
  unwords [txt "STORE", decimal m.freeSlots, decimal m.freeBlocks, either m.congested "CONGESTED" "CLEAR"]

/-- IDTAB line; the values bare, without names: the model's choice (R102, n8). -/
def idtabLine (s : State) : Text :=
  unwords [txt "IDTAB", decimal s.idt.valid, decimal s.idt.free.length, decimal s.ol.settings.idlife]

/-- DIST line; the values bare, without names: the model's choice (R117, n8). -/
def distLine (t : DistTable) : Text := unwords [txt "DIST", decimal t.ownTier.toNat, decimal t.singles.length]

/-- OCC line; u and the sums bare, without names: the model's choice (R65, n8). -/
def occLine (s : State) : Text :=
  unwords [txt "OCC", decimal s.ofm.u, either s.frozen "FROZEN" "FREE",
    decimal (s.ofm.history.map HistoryRecord.frames).sum, decimal (s.ofm.history.map HistoryRecord.failed).sum]

/-- FAULT line of a fault (R65). -/
def faultLine (v : Faults) (f : ChannelFault) : Text :=
  unwords ([txt "FAULT", f.word, either (v.get f).live "LIVE" "CLEAR", either (v.get f).held "HELD" "CLEAR"] ++ (v.get f).selects)

/-- ACCESS line (R151). The counts of the class queues stand bare, without the class words, from LIFE to ROUTINE: the model's choice (n8). -/
def accessLine (a : AccessController) : Text :=
  unwords ([txt "ACCESS", a.access.word] ++ (classes.map fun c => decimal (a.queues.get c).length)
    ++ whenSet a.quiet "QUIET" ++ whenSet a.listenEnd.isSome "LISTEN" ++ whenSet a.identDue "IDENT-DUE"
    ++ whenSet a.beaconDue "BEACON-WANTED")

/-- POOL line; the counts of WAITING and READY records and of outcomes and the next serial bare, without names: the model's choice (R164, R165, R5, n8). -/
def poolLine (d : DeliveryUnit) : Text :=
  unwords [txt "POOL", decimal (d.pool.filter fun r => r.waitingUntil.isSome).length,
    decimal (d.pool.filter fun r => r.waitingUntil.isNone).length, decimal d.outcomes.length, decimal d.serial.toNat]

/-- TIMING line: the values of Table 11-3 behind their names (R171), in the order of that table's rows: the model's choice (n8). -/
def timingLine (v : Settings) : Text := unwords (txt "TIMING" :: settingNames.flatMap fun n => [n.word, decimal (v.get n)])

/-- NOTICE line: the pending kinds, then the masked kinds (R177), each set in the order of emission: the model's choice (n8). -/
def noticeLine (o : OperatorLine) : Text := unwords (txt "NOTICE" :: o.notices.words ++ txt "MASKED" :: o.masked.words)

/-- The content lines of the STATUS block (Table 11-4); the four FAULT lines stand in the order of Table 4-1 and the four CLASS lines from LIFE to ROUTINE (the model's choice, n8). -/
def statusLines (s : State) : List Text :=
  [phaseLine s, countersLine s.fh, storeLine s.ms, idtabLine s, distLine s.dt, occLine s]
    ++ channelFaults.map (faultLine s.ofm.faults)
    ++ [accessLine s.ac, poolLine s.du, timingLine s.ol.settings]
    ++ classes.map (fun c => unwords (txt "CLASS" :: classWords c (s.ol.classes.get c)))
    ++ [noticeLine s.ol]

/-- STATUS (R175). -/
def statusRule (args : List Text) : State → State :=
  withArgs (noArgs args) fun _ s => block (txt "+STATUS") (statusLines s) s

/-- STATUS (R175). -/
def execStatus (args : List Text) (s : State) : Result := .next (command (.status args) none (statusRule args) s)

/-! ## LIST, ROUTES, OUTCOMES (R176) -/

/-- A LIVE command. -/
def liveCommand (c : Instr) (act : State → State) (s : State) : Result := .next (command c (some .live) act s)

/-- The role letters of a slot (R176). -/
def Slot.roles (sl : Slot) : Text :=
  (if sl.originated then txt "O" else []) ++ (if sl.relay then txt "R" else [])
    ++ (if sl.deliverHere then txt "D" else []) ++ (if sl.unread then txt "U" else [])

/-- The line of a slot (R176). -/
def slotLine (i : Fin 64) (sl : Slot) : Text :=
  unwords ([decimal i.val, identityText sl.id, sl.cls.word, sl.state.word, decimal sl.dest.toNat,
    decimal sl.attached.length ++ 0x2F :: decimal sl.count] ++ (if sl.roles.isEmpty then [] else [sl.roles]))

/-- The content lines of LIST, in ascending index (R176). -/
def listLines (m : Store) : List Text := (List.finRange 64).filterMap fun i => (look m.slots i).map (slotLine i)

/-- LIST (R176). -/
def listRule (args : List Text) : State → State :=
  withArgs (noArgs args) fun _ s => block (txt "+LIST") (listLines s.ms) s

/-- LIST (R176). -/
def execList (args : List Text) (s : State) : Result := liveCommand (.list args) (listRule args) s

/-- The line of a single entry (R176). -/
def singleLine (e : Single) : Text :=
  unwords ([decimal e.code.toNat, decimal e.dist.toNat, decimal e.via.toNat]
    ++ (match e.direct with
        | some d => [decimal d.tier.toNat, decimal d.q.toNat]
        | none => [txt "-"])
    ++ [decimal e.age] ++ whenSet e.pinned "PIN")

/-- The line of a span entry (R176). -/
def spanLine (i : Nat) (x : Option Span) : Text :=
  unwords ([decimal i, txt "SPAN"] ++
    (match x with
      | some sp => [decimal sp.base.toNat, decimal sp.k, decimal sp.dist.toNat]
      | none => [txt "UNSET"]))

/-- The content lines of ROUTES (R176); the values of each line bare, without names: the model's choice (n8). -/
def routesLines (t : DistTable) : List Text :=
  unwords [decimal t.ownTier.toNat, decimal t.pinnedCount, decimal t.singles.length] :: t.singles.map singleLine
    ++ t.spans.toList.mapIdx spanLine

/-- ROUTES (R117, R176). -/
def routesRule (args : List Text) : State → State :=
  withArgs (noArgs args) fun _ s => block (txt "+ROUTES") (routesLines s.dt) s

/-- ROUTES (R176). -/
def execRoutes (args : List Text) (s : State) : Result := liveCommand (.routes args) (routesRule args) s

/-- The line of an outcome record (R176). -/
def outcomeLine (r : OutcomeRecord) : Text :=
  unwords (identityText r.id :: (match r.kind with
    | .delivered d => [txt "DELIVERED", decimal d.toNat]
    | .sent => [txt "SENT"]
    | .failed => [txt "FAILED"]))

/-- OUTCOMES: the list is emptied at composition (R165). -/
def outcomesRule (args : List Text) : State → State :=
  withArgs (noArgs args) fun _ s =>
    block (txt "+OUTCOMES") (s.du.outcomes.map outcomeLine) (s.withDu { s.du with outcomes := [] })

/-- OUTCOMES (R165, R176). -/
def execOutcomes (args : List Text) (s : State) : Result := liveCommand (.outcomes args) (outcomesRule args) s

end Sys2Proof.Machine
end

