-- ==== Sys2Proof/Machine/Live.lean ====
section
/-! DEFINITION. Meanings of PIN, UNPIN, PURGE, MASK, UNMASK, FAULTCLR, QUIET, RESUME and RESTART (R63, R64, R112, R113, R148, R177). -/

namespace Sys2Proof.Machine

/-- The pinned field written, and the code and pinned count reported (R112). -/
def writePin (name : String) (c : Code) (b : Bool) (s : State) : State :=
  let s := s.withDt (s.dt.setPinned c b)
  reply [txt name, decimal c.toNat, decimal s.dt.pinnedCount] s

/-- PIN code (R112). -/
def pinRule (args : List Text) : State → State :=
  withArgs (codeArg args) fun c s =>
    match s.dt.single c with
    | none => refuse .noSuch s
    | some e => if !e.pinned && decide (Config.pins ≤ s.dt.pinnedCount) then refuse .full s else writePin "+PIN" c true s

/-- PIN (R112). -/
def execPin (args : List Text) (s : State) : Result := liveCommand (.pin args) (pinRule args) s

/-- UNPIN code (R112). -/
def unpinRule (args : List Text) : State → State :=
  withArgs (codeArg args) fun c s =>
    match s.dt.single c with
    | none => refuse .noSuch s
    | some _ => writePin "+UNPIN" c false s

/-- UNPIN (R112). -/
def execUnpin (args : List Text) (s : State) : Result := liveCommand (.unpin args) (unpinRule args) s

/-- PURGE (R113). -/
def purgeRule (args : List Text) : State → State :=
  withArgs (noArgs args) fun _ s =>
    let t := s.dt.purge s.ol.centre
    reply [txt "+PURGE", decimal (s.dt.singles.length - t.singles.length)] (s.withDt t)

/-- PURGE (R113). -/
def execPurge (args : List Text) (s : State) : Result := liveCommand (.purge args) (purgeRule args) s

/-- The mask written, and the kinds masked reported (R177, n19), in the order of emission: the model's choice (n8). -/
def writeMask (k : Notice) (b : Bool) (s : State) : State :=
  let s := s.withOl { s.ol with masked := s.ol.masked.put k b }
  reply (txt "+MASK" :: s.ol.masked.words) s

/-- MASK kind; INBOX-LIFE cannot be masked (R177). -/
def maskRule (args : List Text) : State → State :=
  withArgs (noticeArg args) fun k s => if k = .inboxLife then refuse .syntaxCode s else writeMask k true s

/-- MASK (R177). -/
def execMask (args : List Text) (s : State) : Result := liveCommand (.mask args) (maskRule args) s

/-- A kind leaves the mask: it is ready, and is emitted after the response that is composed now (R177). -/
def unmask (k : Notice) (s : State) : State := if s.ol.masked.has k then s.withOl { s.ol with unmasking := some k } else s

/-- UNMASK kind (R177). -/
def unmaskRule (args : List Text) : State → State := withArgs (noticeArg args) fun k s => writeMask k false (unmask k s)

/-- UNMASK (R177). -/
def execUnmask (args : List Text) (s : State) : Result := liveCommand (.unmask args) (unmaskRule args) s

/-- The faults still held, by name in the order of Table 4-1, or NONE (R64; the order is the model's choice, n8). -/
def Faults.heldWords (v : Faults) : List Text :=
  let l := (channelFaults.filter fun f => (v.get f).held).map ChannelFault.word
  if l.isEmpty then [txt "NONE"] else l

/-- FAULTCLR (R64). -/
def faultclrRule (args : List Text) : State → State :=
  withArgs (noArgs args) fun _ s =>
    let s := clearHeldFaults s
    reply (txt "+FAULTCLR" :: s.ofm.faults.heldWords) s

/-- FAULTCLR (R64). -/
def execFaultclr (args : List Text) (s : State) : Result := liveCommand (.faultclr args) (faultclrRule args) s

/-- The QUIET flag set or cleared, and AC re-evaluates; nothing changes when it stands so already (R137, R148). -/
def setQuiet (b : Bool) (s : State) : State :=
  if s.ac.quiet = b then s else evaluate (s.withAc { s.ac with quiet := b })

/-- QUIET (R148). -/
def quietRule (args : List Text) : State → State :=
  withArgs (noArgs args) fun _ s => reply [txt "+QUIET"] (setQuiet true s)

/-- QUIET (R148). -/
def execQuiet (args : List Text) (s : State) : Result := liveCommand (.quiet args) (quietRule args) s

/-- RESUME (R148). -/
def resumeRule (args : List Text) : State → State :=
  withArgs (noArgs args) fun _ s => reply [txt "+RESUME"] (setQuiet false s)

/-- RESUME (R148). -/
def execResume (args : List Text) (s : State) : Result := liveCommand (.resume args) (resumeRule args) s

/-- RESTART: one channel restart request is sent, and the command answered (R63). -/
def restartRule (args : List Text) : State → State :=
  withArgs (noArgs args) fun _ s => reply [txt "+RESTART"] (s.withOfm { s.ofm with requests := s.ofm.requests + 1 })

/-- RESTART (R63). -/
def execRestart (args : List Text) (s : State) : Result := liveCommand (.restart args) (restartRule args) s

end Sys2Proof.Machine
end

