-- ==== Sys2Proof/Machine/Arrivals.lean ====
section
/-! DEFINITION. What an accepted frame does: learning, lookup, a new message, assembly and completion, a heard receipt, a beacon (R27 to R29, R72 to R81, R163). -/

namespace Sys2Proof.Machine

/-! ## Learning (R106, R107) -/

/-- The Distance Table learns an entry. -/
def learn (x : Single) (s : State) : State := s.withDt (s.dt.learn s.ol.centre s.ol.settings.routelife x)

/-- The sender is learned (R106). -/
def learnSender (h : Header) (q : Nibble) (s : State) : State := learn (senderLesson h.sender h.receivedTier q) s

/-- The origin or deliverer is learned, where R107 applies. -/
def learnFar (o : Code) (h : Header) (used : Nibble) (s : State) : State :=
  if farApplies s.ol.ownCode o h.sender used then learn (farLesson o h.sender used) s else s

/-! ## A new message (R72 to R75) -/

/-- An identity recorded as SEEN: by insert, or on the DROPPED entry (R72, R97). -/
def recordSeen (id : Identity) (s : State) : State :=
  match s.idt.entry id with
  | some _ => s.withIdt (s.idt.dispose id .seen)
  | none =>
    match s.idt.insert id .seen false with
    | .inserted t => s.withIdt t
    | .found t => s.withIdt t
    | .failed => reportDropped s

/-- The identity entered before a slot is taken; none means the message goes no further (R74, step 1; R97). -/
def enterIdentity (id : Identity) (s : State) : State × Bool :=
  match s.idt.entry id with
  | some _ => (s, true)
  | none =>
    match s.idt.insert id .dropped false with
    | .inserted t => (s.withIdt t, true)
    | .found t => (s.withIdt t, false)
    | .failed => (reportDropped s, false)

/-- A slot takes a record and its first segment, and the entry its link (R74 step 3, R75). -/
def createSlot (i : Fin 64) (sl : Slot) (segs : List (Fin 8 × List Byte)) (s : State) : State :=
  (s.withMs ((s.ms.occupy i sl).attachAll i segs)).withIdt (s.idt.link sl.id i)

/-- A new message that needs a slot: identity, allocation, slot, and delivery of a complete one (R74, R79). -/
def storeNew (t : Traffic) (sl : Slot) (s : State) : State :=
  let e := enterIdentity t.id s
  if e.2 then
    match allocate sl.cls 1 1 e.1 with
    | none => reportDropped e.1
    | some s =>
      match s.ms.lowestFree with
      | none => s
      | some i =>
        let s := createSlot i sl [(Fin.ofNat 8 t.index.toNat, t.data)] s
        if sl.deliverHere && sl.state != .assembling then deliver i s else s
  else e.1

/-- The record of a slot created from a segment, ASSEMBLING (R75). -/
def segmentSlot (t : Traffic) (q : Nibble) (s : State) : Slot where
  state := .assembling
  id := t.id
  dest := t.dest
  cls := .ofBits t.cls
  budget := t.budget
  used := t.used
  bodyLength := t.bodyLength.toNat
  count := t.count
  blocks := Vector.replicate 8 none
  originated := false
  relay := false
  deliverHere := deliversHere s t.dest
  unread := false
  answered := false
  heard := []
  retries := 1
  resumeAt := 0
  deadline := some (s.now + s.ol.settings.assembly * 1000)
  sentDist := none
  q := q
  completion := s.now

/-- The record of a candidate: relay role, relay deadline, HELD (R121). -/
def Slot.toHeld (sl : Slot) (deadline : Nat) : Slot := { sl with state := .held, relay := true, deadline := some deadline }

/-- The record of a message delivered and not relayed: INBOX (R73, R81). -/
def Slot.toInbox (sl : Slot) : Slot := { sl with state := .inbox, deadline := none }

/-- The decision that a segment completing a fresh message asks for (R73). -/
def segmentDecision (h : Header) (t : Traffic) (q : Nibble) : Decision :=
  ⟨.ofBits t.cls, t.dest, t.serial, effectiveBudget t.budget t.used, [], h.dist, q⟩

/-- A message worth keeping (R72). -/
def worthKeeping (t : Traffic) (s : State) : Bool :=
  deliversHere s t.dest || (decide (2 ≤ effectiveBudget t.budget t.used) && !addressedHere s t.dest)

/-- A TRAFFIC segment that reaches the store as a new message (R72 to R75). -/
def newMessage (h : Header) (t : Traffic) (q : Nibble) (s : State) : State :=
  let sl := segmentSlot t q s
  if !worthKeeping t s then recordSeen t.id s
  else if t.count = 1 then
    match decideRelay (segmentDecision h t q) s with
    | (some n, s) => storeNew t (sl.toHeld (s.now + n * s.ol.settings.slot)) s
    | (none, s) => if sl.deliverHere then storeNew t sl.toInbox s else recordSeen t.id s
  else storeNew t sl s

/-! ## Assembly and completion (R80, R81) -/

/-- The message of slot `i` completes (R81). -/
def complete (i : Fin 64) (h : Header) (q : Nibble) (s : State) : State :=
  let s := modSlot i (fun sl => { sl with completion := s.now, q := q, deadline := none }) s
  match look s.ms.slots i with
  | none => s
  | some sl =>
    match decideRelay ⟨sl.cls, sl.dest, sl.id.serial, sl.effective, sl.heard, h.dist, q⟩ s with
    | (some n, s) =>
      let s := modSlot i (fun sl => sl.toHeld (s.now + n * s.ol.settings.slot)) s
      if sl.deliverHere then deliver i s else s
    | (none, s) =>
      if sl.deliverHere then deliver i (modSlot i Slot.toInbox s) else freeSlot i .seen s

/-- A segment disagrees with its ASSEMBLING slot (R80, step 1). -/
def conflicts (sl : Slot) (t : Traffic) : Bool :=
  sl.cls != .ofBits t.cls || sl.dest != t.dest || sl.bodyLength != t.bodyLength.toNat || sl.count != t.count

/-- A segment whose identity links an ASSEMBLING slot, at the store (R80). -/
def assemble (i : Fin 64) (sl : Slot) (h : Header) (t : Traffic) (q : Nibble) (s : State) : State :=
  let index := Fin.ofNat 8 t.index.toNat
  if conflicts sl t then countMalformed s
  else if (look sl.blocks index).isSome then s
  else
    match allocate sl.cls 0 1 s with
    | none => reportDropped s
    | some s =>
      let s := s.withMs (s.ms.attach i index t.data)
      match look s.ms.slots i with
      | some sl => if sl.complete then complete i h q s else s
      | none => s

/-! ## Dispatch (R27 to R29) -/

/-- A TRAFFIC segment whose entry links slot `i` (Table 2-7). A link names a slot that is held, so the first case does not arise. -/
def linkedTraffic (i : Fin 64) (e : Entry) (h : Header) (t : Traffic) (q : Nibble) (s : State) : State :=
  match look s.ms.slots i with
  | none => s
  | some sl =>
    match sl.state with
    | .assembling => assemble i sl h t q (overheard i sl h t s)
    | .held | .queued | .onAir => overheard i sl h t s
    | .await => possibleEcho i sl h t s
    | .inbox => duplicate e sl.cls t s

/-- A TRAFFIC segment whose entry links no slot (Table 2-7). One that meets a DROPPED entry is a new message, a later copy of an evicted message too (R78); a relay that would have stood its slot down, and comes together with the slot's eviction, is an Identity Table hit only (Table 8-6, n31). -/
def unlinkedTraffic (e : Entry) (h : Header) (t : Traffic) (q : Nibble) (s : State) : State :=
  match e.disposition with
  | .dropped => if standDownTooLate h t s then s else newMessage h t q s
  | .delivered => duplicate e (.ofBits t.cls) t s
  | _ => s

/-- An accepted TRAFFIC frame after learning: lookup, then the block that Table 2-7 names (R27). -/
def routeTraffic (h : Header) (t : Traffic) (q : Nibble) (s : State) : State :=
  let found := s.idt.lookup t.id
  let s := s.withIdt found.2
  match found.1 with
  | none => newMessage h t q s
  | some e =>
    match e.link with
    | some i => linkedTraffic i e h t q s
    | none => unlinkedTraffic e h t q s

/-- An accepted TRAFFIC frame (R27). -/
def dispatchTraffic (h : Header) (t : Traffic) (q : Nibble) (s : State) : State :=
  routeTraffic h t q (learnFar t.origin h t.used (learnSender h q s))

/-- A late or first success of a message posted here: the outcome and the notice (R163). -/
def reportDelivered (id : Identity) (deliverer : Code) (s : State) : State :=
  raiseNotice .delivered (addOutcome id (.delivered deliverer) s)

/-- The effect of a heard receipt on a linked slot (Table 10-1). -/
def receiptAtSlot (i : Fin 64) (sl : Slot) (r : ReceiptFrame) (s : State) : State :=
  if sl.deliverHere then
    if s.ol.ownCode = some r.deliverer then s else modSlot i (fun sl => { sl with answered := true }) s
  else if sl.state = .onAir then s
  else if sl.originated then reportDelivered sl.id r.deliverer (freeSlot i .settled s)
  else freeSlot i .settled s

/-- The effect of a heard receipt on an unlinked entry (Table 10-1). -/
def receiptAtEntry (e : Entry) (r : ReceiptFrame) (s : State) : State :=
  if e.originated ∧ (e.disposition = .relayed ∨ e.disposition = .failed) then
    reportDelivered r.id r.deliverer (s.withIdt (s.idt.dispose r.id .settled))
  else if e.disposition = .delivered ∧ s.ol.ownCode = some r.deliverer then s
  else if e.originated ∧ e.disposition = .settled then s
  else s.withIdt (s.idt.dispose r.id .settled)

/-- A heard receipt's effect by the entry found at lookup (R163). -/
def applyReceipt (e : Entry) (r : ReceiptFrame) (s : State) : State :=
  match e.link with
  | some i =>
    match look s.ms.slots i with
    | some sl => receiptAtSlot i sl r s
    | none => s
  | none => receiptAtEntry e r s

/-- The identity of a receipt of which there is no entry, inserted SETTLED (R28, R97). -/
def recordReceipt (id : Identity) (s : State) : State :=
  match s.idt.insert id .settled false with
  | .inserted t => s.withIdt t
  | .found t => s.withIdt t
  | .failed => reportDropped s

/-- An accepted RECEIPT frame after learning: lookup or insert, effect, contention (R28, R130, R163). -/
def routeReceipt (h : Header) (r : ReceiptFrame) (q : Nibble) (s : State) : State :=
  let found := s.idt.lookup r.id
  let s := s.withIdt found.2
  match found.1 with
  | none => contendReceipt none h r q (recordReceipt r.id s)
  | some e => contendReceipt (some e) h r q (applyReceipt e r s)

/-- An accepted RECEIPT frame (R28). -/
def dispatchReceipt (h : Header) (r : ReceiptFrame) (q : Nibble) (s : State) : State :=
  routeReceipt h r q (learnFar r.deliverer h r.used (learnSender h q s))

/-- An accepted frame, counted, reported and dispatched by kind (R26 to R29). -/
def acceptFrame (bytes : List Byte) (q : Nibble) (s : State) : State :=
  let s := reportAccepted (countAccepted s)
  let h := parseHeader bytes
  let p := payload bytes
  if h.kind = 1 then dispatchTraffic h (parseTraffic p) q s
  else if h.kind = 2 then dispatchReceipt h (parseReceipt p) q s
  else learnSender h q s

/-- FH's handling of a frame it has taken (R23 to R26). -/
def handleFrame (bytes : List Byte) (q : Nibble) (s : State) : State :=
  match validate s.ol.ownCode bytes with
  | .checkfail => reportCompleted false (countCheckfail s)
  | .malformed => countMalformed (reportCompleted true s)
  | .clash => raiseNotice .clash (reportCompleted true s)
  | .accepted => acceptFrame bytes q (reportCompleted true s)

end Sys2Proof.Machine
end

