-- ==== Sys2Proof/Machine/Posting.lean ====
section
/-! DEFINITION. Meanings of POST, BODY_LINE, CLOSING_LINE, FETCH, FETCH_COMPLETE and CANCEL (R5, R11, R13, R153, R158, R161, R162, R172, R176). -/

namespace Sys2Proof.Machine

/-! ## Collecting a body (R11, R172) -/

/-- A POST line starts body collection in either phase, with no response (R172). One with a word missing or a word too many does so as well, and is refused with SYNTAX at its closing line (n34). -/
def postRule (args : List Text) (s : State) : State :=
  s.withOl { s.ol with post := some ⟨args, [], 0, 0, false, false, false⟩ }

/-- POST (R172). -/
def execPost (args : List Text) (s : State) : Result := .next (command (.post args) none (postRule args) s)

/-- A body line without its first "." if it begins with one (R11). -/
def unstuff (t : Text) : Text :=
  match t with
  | c :: r => if c = 0x2E then r else t
  | [] => []

/-- A character that a body line may hold (R11). -/
def bodyChar (c : Byte) : Bool := 0x20 ≤ c.toNat && c.toNat ≤ 0x7E

/-- What a body line adds to the joined body: a line break before every line but the first, then the line (R11). -/
def bodyPart (lines : Nat) (t : Text) : Text := (if lines = 0 then [] else [0x0A]) ++ unstuff t

/-- A body line joins the collection; characters beyond the buffer's 512 are not stored (R11). -/
def Collection.add (c : Collection) (l : OpLine) : Collection :=
  let part := bodyPart c.lines l.text
  { c with
    body := (c.body ++ part).take Config.bodyCapacity
    total := c.total + part.length
    lines := c.lines + 1
    overrun := c.overrun || l.overrun
    tooLong := c.tooLong || l.tooLong
    badChar := c.badChar || l.text.any fun x => !bodyChar x }

/-- BODY_LINE: a line taken during a collection (R11, R172). -/
def bodyLine (l : OpLine) (s : State) : State :=
  match s.ol.post with
  | some c => if isClosing l then s else s.withOl { s.ol.takeLine (.bodyLine l) with post := some (c.add l) }
  | none => s

/-- BODY_LINE (R11). -/
def execBodyLine (l : OpLine) (s : State) : Result := .next (bodyLine l s)

/-! ## POST (R5, R83, R153) -/

/-- The serial after one; after 65535 comes 1 (R5). -/
def nextSerial (v : Serial) : Serial := if v = 0xFFFF then 1 else v + 1

/-- The serial search and insert: a serial whose identity is in the table is passed over (R5, R153 steps 1 and 2). `none` is a failed insert. -/
def chooseSerial (own : Code) : Nat → Serial → IdTable → IdTable × Option Serial
  | 0, _, t => (t, none)
  | fuel + 1, v, t =>
    match t.insert ⟨own, v⟩ .stored true with
    | .inserted t => (t, some v)
    | .found t => chooseSerial own fuel (nextSerial v) t
    | .failed => (t, none)

/-- Lookups that the serial search needs at most (R5). -/
def searchLimit : Nat := 1281

/-- What a POST asks for. -/
structure Posting where
  dest   : Code
  cls    : MsgClass
  budget : Nat
  body   : Text
deriving DecidableEq, Repr

/-- The record of a posted slot (R83). -/
def postedSlot (p : Posting) (id : Identity) (s : State) : Slot where
  state := .queued
  id := id
  dest := p.dest
  cls := p.cls
  budget := BitVec.ofNat 4 p.budget
  used := 0
  bodyLength := p.body.length
  count := segments p.body.length
  blocks := Vector.replicate 8 none
  originated := true
  relay := false
  deliverHere := false
  unread := false
  answered := false
  heard := []
  retries := s.ol.settings.retry
  resumeAt := 0
  deadline := none
  sentDist := none
  q := 0
  completion := s.now

/-- The slot of an accepted POST: created, filled, linked, queued; the counter advances past the serial (R153, step 4). -/
def placePosted (p : Posting) (id : Identity) (s : State) : State :=
  match s.ms.lowestFree with
  | none => s
  | some i =>
    enqueueTail p.cls i
      (createSlot i (postedSlot p id s) (cutBody p.body) (s.withDu { s.du with serial := nextSerial id.serial }))

/-- The allocation for a POST of `n` segments; its victims that could stand down are noted with the moment (R77, R83, Table 8-6, n31). -/
def allocatePost (p : MsgClass) (n : Nat) (s : State) : Option State :=
  allocate p 1 n (s.withMs (s.ms.noteVictims s.now ((s.ms.plan p 1 n).getD [])))

/-- The Delivery Unit takes a POST: the identity given and the state after it, or no identity for FULL (R153). -/
def takePost (p : Posting) (s : State) : Option Identity × State :=
  let own := s.ol.ownCode.getD 0
  let found := chooseSerial own searchLimit s.du.serial s.idt
  match found.2 with
  | none => (none, s.withIdt found.1)
  | some v =>
    match allocatePost p.cls (segments p.body.length) (s.withIdt found.1) with
    | none => (none, s.withIdt (found.1.withdraw ⟨own, v⟩))
    | some s => (some ⟨own, v⟩, placePosted p ⟨own, v⟩ s)

/-- The hop budget of a POST: the hops argument clamped to 1-15, or HOPS (R8). -/
def postBudget (hops : Option Nat) (s : State) : Nat := (hops.map (clamp 1 15)).getD s.ol.settings.hops

/-- The hops argument was clamped (R8). -/
def hopsClamped (hops : Option Nat) : Bool := hops.any fun h => clamp 1 15 h != h

/-- A POST that passed its checks is taken and answered (R153). -/
def answerPost (dest : Code) (cls : MsgClass) (hops : Option Nat) (body : Text) (s : State) : State :=
  let r := takePost ⟨dest, cls, postBudget hops s, body⟩ s
  match r.1 with
  | some id => reply ([txt "+POST", identityText id] ++ clampedWord (hopsClamped hops)) r.2
  | none => refuse .full r.2

/-- The checks at the closing line, in order (R172). -/
def decidePost (c : Collection) (s : State) : State :=
  if !s.isLive then refuse .stateCode s
  else
    match postArgs s.ol.ownCode c.args with
    | none => refuse .syntaxCode s
    | some (dest, cls, hops) =>
      if c.overrun then refuse .overrun s
      else if c.tooLong || c.total == 0 || decide (Config.bodyCapacity < c.total) then refuse .length s
      else if c.badChar then refuse .syntaxCode s
      else answerPost dest cls hops c.body s

/-- CLOSING_LINE: the collection ends and the POST is decided (R153, R172). -/
def closingLine (s : State) : State :=
  match s.ol.post with
  | some c => decidePost c (s.withOl { s.ol.takeLine .closingLine with post := none })
  | none => s

/-- CLOSING_LINE (R153). -/
def execClosingLine (s : State) : Result := .next (closingLine s)

/-! ## FETCH (R13, R161, R162, R176) -/

/-- A slot that FETCH may select (R161). -/
def Slot.fetchable (sl : Slot) : Bool := sl.deliverHere && sl.unread && sl.state != .assembling

/-- Of two slots, the one FETCH offers first: higher class, then earlier completion; the lower index among equals (R161). -/
def pickUnread (best : Option (Fin 64 × Slot)) (x : Fin 64 × Slot) : Option (Fin 64 × Slot) :=
  match best with
  | none => some x
  | some b =>
    if x.2.cls.num < b.2.cls.num ∨ (x.2.cls = b.2.cls ∧ x.2.completion < b.2.completion) then some x else some b

/-- The slots that FETCH may select, in ascending index. -/
def Store.unreads (m : Store) : List (Fin 64 × Slot) :=
  (List.finRange 64).filterMap fun i =>
    match look m.slots i with
    | some sl => if sl.fetchable then some (i, sl) else none
    | none => none

/-- The slot that FETCH selects (R161). -/
def Store.selectUnread (m : Store) (id : Option Identity) : Option (Fin 64 × Slot) :=
  match id with
  | some i => m.unreads.find? fun x => x.2.id == i
  | none => m.unreads.foldl pickUnread none

/-- The body of a slot (R12, R13). -/
def Store.body (m : Store) (sl : Slot) : Text :=
  (List.finRange 8).flatMap fun i => if i.val < sl.count then m.segment sl i else []

/-- A body character as shown (R13). -/
def shownChar (c : Byte) : Byte := if bodyChar c then c else 0x3F

/-- A body line as shown (R13). -/
def shownLine (t : Text) : Text :=
  let t := t.map shownChar
  if t.head? = some 0x2E then 0x2E :: t else t

/-- A body as lines (R13). -/
def shownBody (body : Text) : List Text := (splitOn 0x0A body).map shownLine

/-- The header line of a FETCH block (R176). -/
def fetchHeader (sl : Slot) : Text :=
  unwords [txt "+FETCH", identityText sl.id, sl.cls.word, decimal sl.dest.toNat, decimal sl.bodyLength,
    if sl.answered then txt "ANSWERED" else txt "UNANSWERED"]

/-- FETCH (R161). -/
def fetchRule (args : List Text) : State → State :=
  withArgs (fetchArg args) fun id s =>
    if s.du.fetchRef.isSome then refuse .busy s
    else
      match s.ms.selectUnread id with
      | none => refuse .noSuch s
      | some (i, sl) =>
        block (fetchHeader sl) (shownBody (s.ms.body sl)) (s.withDu { s.du with fetchRef := some i })

/-- FETCH (R161). -/
def execFetch (args : List Text) (s : State) : Result := liveCommand (.fetch args) (fetchRule args) s

/-- The characters up to the end of the FETCH block's closing line have been sent (R162, n17). -/
def OperatorLine.fetchSent (o : OperatorLine) (ohold : Bool) : OperatorLine :=
  match o.fetchLeft with
  | some n => { (o.sent n ohold) with fetchLeft := none }
  | none => { o with output := [], waiting := [], blockOpen := false, unmasking := none, sending := false }

/-- Sending can go on to the end of the FETCH block: OHOLD is not asserted, or the last character is being sent (R169). -/
def OperatorLine.canEndFetch (o : OperatorLine) (ohold : Bool) : Bool := !ohold || (o.sending && o.fetchLeft == some 1)

/-- FETCH_COMPLETE (R162). -/
def fetchComplete (s : State) : State :=
  if s.du.fetchRef.isSome && s.ol.canEndFetch s.pins.ohold then completeFetch (s.withOl (s.ol.fetchSent s.pins.ohold)) else s

/-- FETCH_COMPLETE (R162). -/
def execFetchComplete (s : State) : Result := .next (fetchComplete s)

/-! ## CANCEL (R158) -/

/-- The slot that holds an identity posted here. -/
def Store.posted (m : Store) (id : Identity) : Option (Fin 64 × Slot) :=
  (List.finRange 64).findSome? fun i =>
    match look m.slots i with
    | some sl => if sl.originated && sl.id == id then some (i, sl) else none
    | none => none

/-- CANCEL serial (R158). -/
def cancelRule (args : List Text) : State → State :=
  withArgs (serialArg args) fun n s =>
    let id : Identity := ⟨s.ol.ownCode.getD 0, n⟩
    match s.ms.posted id with
    | none => refuse .noSuch s
    | some (i, sl) =>
      if sl.state = .onAir then refuse .busy s else reply [txt "+CANCEL", identityText id] (freeSlot i .failed s)

/-- CANCEL (R158). -/
def execCancel (args : List Text) (s : State) : Result := liveCommand (.cancel args) (cancelRule args) s

end Sys2Proof.Machine
end

