-- ==== Sys2Proof/Machine/Clock.lean ====
section
/-! DEFINITION. Time that passes: the clock, the carrier time it counts, and the window ends it comes to on the way (R51, R52, R54). -/

namespace Sys2Proof.Machine

/-- A window record after `ms` milliseconds with carrier or without, never more than WINDOW (R52). -/
def Window.pass (w : Window) (carrier : Bool) (length ms : Nat) : Window :=
  if carrier then { w with carrierMs := min length (w.carrierMs + ms) } else w

/-- The clock moves on to `t` within the window under way, if it is not there yet; the time passed counts while DCD or PTT is asserted (R52). -/
def runTo (t : Nat) (s : State) : State :=
  if t ≤ s.now then s
  else
    (s.withOfm { s.ofm with
      window := s.ofm.window.map fun w => w.pass (s.pins.dcd || s.ptt) s.ol.settings.window (t - s.now) }).withNow t

/-- The window under way, with its carrier time up to its end, ends (R54). -/
def windowEnds (s : State) : State :=
  match s.ofm.window with
  | some w => endWindow w s
  | none => s

/-- The clock comes to the end of the window under way; the window ends there, and AC re-evaluates (R51, R54, R137). -/
def windowPasses (s : State) : State :=
  match s.ofm.window with
  | some w => evaluate (windowEnds (runTo w.endsAt s))
  | none => s

/-- How many window ends lie before `t` (R51). -/
def endsBefore (t : Nat) (s : State) : Nat :=
  match s.ofm.window with
  | some w => (t - w.endsAt + s.ol.settings.window - 1) / s.ol.settings.window
  | none => 0

/-- The window ends that lie before `t` happen one after the other, at most `n` of them. -/
def passEnds (t : Nat) : Nat → State → State
  | 0, s => s
  | n + 1, s =>
    match s.ofm.window with
    | some w => if w.endsAt < t then passEnds t n (windowPasses s) else s
    | none => s

/-- The clock moves on to `t`, if it is not there yet. A window end that lies before `t` happens at its own moment on the way, so that a carrier interval is divided there and each window starts with DCD as it is then (R51, R52, n2). -/
def advance (t : Nat) (s : State) : State := if t ≤ s.now then s else runTo t (passEnds t (endsBefore t s) s)

/-- The clock moves on to a deadline that may be absent. -/
def advanceTo (t : Option Nat) (s : State) : State :=
  match t with
  | some t => advance t s
  | none => s

end Sys2Proof.Machine
end

