-- ==== Sys2Proof/WellFormed.lean ====
section
/-! DEFINITION. Which terms of Instr are events the part can meet: words hold no space and no line end and are not empty, a line fits the input buffer's line limit, an event that comes with a bit received has at least one sample. The meanings are total on every term; a term that fails these checks names no event (n3). -/

namespace Sys2Proof

/-- A word of a command line: not empty, no space, no carriage return, no line feed (R167, R170). -/
def wordOk (w : Text) : Bool :=
  !w.isEmpty && w.all (fun c => c != 0x20 && c != 0x0D && c != 0x0A)

/-- Argument words that fit on a line of at most 160 characters behind a command name of up to 8 (R168). -/
def argsOk (args : List Text) : Bool :=
  args.all wordOk && (args.map (fun w => w.length + 1)).sum + 8 ≤ Config.lineLimit

/-- A line as the input buffer can hold it: at most 160 characters, no line end among them (R168). -/
def lineOk (l : OpLine) : Bool :=
  l.text.length ≤ Config.lineLimit && l.text.all (fun c => c != 0x0D && c != 0x0A)

/-- The well-formed commands. -/
def Instr.wf : Instr → Bool
  | .reset _ => true
  | .characterReceived _ _ => true
  | .oholdAsserted => true
  | .oholdDeasserted => true
  | .characterSent => true
  | .outputPlaced => true
  | .noticeEmitted => true
  | .unknownCommand l => lineOk l
  | .code args => argsOk args
  | .call args => argsOk args
  | .centre args => argsOk args
  | .hops args => argsOk args
  | .timing args => argsOk args
  | .classCmd args => argsOk args
  | .span args => argsOk args
  | .faultsel args => argsOk args
  | .test1 args => argsOk args
  | .test2 args => argsOk args
  | .test3 args => argsOk args
  | .test4 args => argsOk args
  | .selfTestComplete => true
  | .onair args => argsOk args
  | .status args => argsOk args
  | .post args => argsOk args
  | .bodyLine l => lineOk l && !(l.text == [0x2E] && !l.overrun && !l.tooLong)
  | .closingLine => true
  | .fetch args => argsOk args
  | .fetchComplete => true
  | .cancel args => argsOk args
  | .list args => argsOk args
  | .routes args => argsOk args
  | .outcomes args => argsOk args
  | .pin args => argsOk args
  | .unpin args => argsOk args
  | .purge args => argsOk args
  | .mask args => argsOk args
  | .unmask args => argsOk args
  | .faultclr args => argsOk args
  | .quiet args => argsOk args
  | .resume args => argsOk args
  | .restart args => argsOk args
  | .channelRestart => true
  | .dcdAsserted => true
  | .dcdDeasserted => true
  | .syncFound samples => !samples.isEmpty
  | .frameAbandoned samples => !samples.isEmpty
  | .skippedFramePassed samples => !samples.isEmpty
  | .frameCompletes samples _ => !samples.isEmpty
  | .frameTaken => true
  | .handlingEnds => true
  | .windowEnd => true
  | .receiveClockLoss => true
  | .receiveClockResumes _ => true
  | .transmitClockLoss => true
  | .transmitClockResumes _ => true
  | .accessDelayEnd => true
  | .keyupExpiry => true
  | .frameSent => true
  | .trainEnded => true
  | .timeLimitExpiry => true
  | .assemblyDeadlineExpiry _ => true
  | .relayDeadlineExpiry _ => true
  | .echoDeadlineExpiry _ => true
  | .receiptDeadlineExpiry id => decide (id.origin ≠ 0 ∧ id.origin ≠ Config.anyCentre ∧ id.origin ≠ Config.allStations)
  | .identTimerExpiry => true
  | .beaconTimerExpiry => true
  | .listeningPeriodEnd => true
  | .identityTableMinuteEvent => true
  | .sweepVisit => true
  | .sweepCompletes => true
  | .distanceTableMinuteEvent => true
  | .agingPassVisit => true
  | .agingPassCompletes => true

end Sys2Proof
end

