-- ==== Sys2Proof/Machine/Port.lean ====
section
/-! DEFINITION. Meanings of the reception events, of the window and clock events and of the channel restart (R34 to R41, R46 to R48, R51 to R63, R87, R150). -/

namespace Sys2Proof.Machine

/-! ## Clock edges (R46, R47) -/

/-- An edge of RXC while the receive clock watch runs: the watch restarts and a loss ends (R46). -/
def rxEdge (s : State) : State :=
  if s.isLive && s.pins.dcd then
    let s := s.withMp { s.mp with rxWatch := some s.now }
    if s.ofm.rxLoss then evaluate (reportClocks false s.ofm.txLoss s) else s
  else s

/-- An edge of TXC while PTT is asserted: the watch restarts and a loss ends (R47). -/
def txEdge (s : State) : State :=
  if s.ptt then
    let s := s.withMp { s.mp with txWatch := some s.now }
    if s.ofm.txLoss then evaluate (reportClocks s.ofm.rxLoss false s) else s
  else s

/-! ## Carrier detect (R35, R39, R40, R46, R52, R60, R139, R140) -/

/-- AC takes an assertion of DCD: a running delay is abandoned unless the train overrides the carrier (R140). -/
def carrierRises (s : State) : State :=
  if s.ac.access = .counting && !overridesCarrier s then s.withAc (s.ac.rest .deferring) else evaluate s

/-- DCD rises. -/
def dcdRises (s : State) : State :=
  carrierRises ((s.withPins { s.pins with dcd := true }).withMp
    { s.mp.emptyRegister with rxWatch := if s.isLive then some s.now else none })

/-- DCD_ASSERTED; no edge when it is asserted already (R35, R46). -/
def execDcdAsserted (s : State) : Result := .next (if s.pins.dcd then s else dcdRises s)

/-- The assembler at a deassertion of DCD: a frame being gathered is truncated, skipping ends, the hunting register is emptied (R35, R39, R40). -/
def ModemPort.loseCarrier (m : ModemPort) : ModemPort :=
  match m.assembler with
  | .gathering _ => m.dropGathering.hunt .hunting
  | .skipping _ => m.hunt .hunting
  | _ => m.emptyRegister

/-- A frame was being gathered. -/
def ModemPort.isGathering (m : ModemPort) : Bool :=
  match m.assembler with
  | .gathering _ => true
  | _ => false

/-- The window's carrier throughout mark falls (R52). -/
def Window.broken (w : Window) : Window := { w with throughout := false }

/-- DCD falls: the port, TRUNCATED, the receive clock watch, the window's mark, the STUCK-CARRIER run, and AC. -/
def dcdFalls (s : State) : State :=
  let truncated := s.mp.isGathering
  let s := (s.withPins { s.pins with dcd := false }).withMp { s.mp.loseCarrier with rxWatch := none }
  let s := if truncated then countTruncated s else s
  let s := s.withOfm { s.ofm with window := s.ofm.window.map Window.broken }
  evaluate (endStuckRun (reportClocks false s.ofm.txLoss s))

/-- DCD_DEASSERTED; no edge when it is deasserted already (R39). -/
def execDcdDeasserted (s : State) : Result := .next (if s.pins.dcd then dcdFalls s else s)

/-! ## Sync, gathering, skipping (R35 to R40) -/

/-- FH's counters take what MP reports of a sample: OVERRUN or MALFORMED (R37, R40). -/
def reportReceived (e : Received) (s : State) : State :=
  match e with
  | .overrun => countOverrun s
  | .abandoned => countMalformed s
  | _ => s

/-- A rising edge of RXC: RXD is sampled while DCD is asserted (R32, R35, R46). -/
def rxcRises (rxd : Bool) (q : Nibble) (s : State) : State :=
  if s.pins.dcd then
    let r := s.mp.sample q rxd
    reportReceived r.2 (rxEdge (s.withMp r.1))
  else s

/-- The rising edges of RXC up to the one at which a row's event comes; samples that do not bring an event of the row with the last of them are none (n3, n4). -/
def rxcBrings (row : Received → Bool) (q : Nibble) (samples : List Bool) (s : State) : State :=
  let r := s.mp.take q samples
  if s.pins.dcd && row r.2.1 && r.2.2.isEmpty then reportReceived r.2.1 (rxEdge (s.withMp r.1)) else s

/-- SYNC_FOUND (R35, R36, R40). -/
def execSyncFound (s : State) (samples : List Bool := Config.syncSamples) : Result :=
  .next (rxcBrings (fun e => e == .claimed || e == .overrun) 0 samples s)

/-- FRAME_ABANDONED (R37, R40). -/
def execFrameAbandoned (samples : List Bool) (s : State) : Result :=
  .next (rxcBrings (fun e => e == .abandoned || e == .skipCut) 0 samples s)

/-- SKIPPED_FRAME_PASSED (R40). -/
def execSkippedFramePassed (samples : List Bool) (s : State) : Result := .next (rxcBrings (fun e => e == .passed) 0 samples s)

/-- FRAME_COMPLETES (R33, R38). -/
def execFrameCompletes (samples : List Bool) (qual : Nibble) (s : State) : Result :=
  .next (rxcBrings (fun e => e == .completed) qual samples s)

/-! ## Handling (R22, R41) -/

/-- A buffer is IN HANDLING. -/
def RxBuffer.isHandled : RxBuffer → Bool
  | .inHandling _ _ => true
  | _ => false

/-- FH is idle: no buffer is IN HANDLING (R22). -/
def ModemPort.handlerIdle (m : ModemPort) : Bool := m.buffers.toList.all fun b => !b.isHandled

/-- The frame that FH takes next: the FULL buffer filled first, when FH is idle (R22). -/
def ModemPort.nextTaken (m : ModemPort) : Option (Fin 2 × List Byte × Nibble) :=
  if m.handlerIdle then
    match m.fullOrder with
    | b :: _ =>
      match look m.buffers b with
      | .full bytes q => some (b, bytes, q)
      | _ => none
    | [] => none
  else none

/-- FH takes a buffer (R22). -/
def takeBuffer (b : Fin 2) (bytes : List Byte) (q : Nibble) (s : State) : State :=
  s.withMp { s.mp with buffers := place s.mp.buffers b (.inHandling bytes q), fullOrder := s.mp.fullOrder.drop 1 }

/-- FRAME_TAKEN: the frame is taken, validated and dispatched (R22 to R29). -/
def execFrameTaken (s : State) : Result :=
  .next (match s.mp.nextTaken with
    | some (b, bytes, q) => handleFrame bytes q (takeBuffer b bytes q s)
    | none => s)

/-- A buffer after FH releases it. -/
def RxBuffer.release (b : RxBuffer) : RxBuffer := if b.isHandled then .empty else b

/-- HANDLING_ENDS: the buffer becomes EMPTY (R41, n11). -/
def execHandlingEnds (s : State) : Result := .next (s.withMp { s.mp with buffers := s.mp.buffers.map RxBuffer.release })

/-! ## Windows and clocks (R46, R47, R54, R62) -/

/-- WINDOW_END (R54). -/
def execWindowEnd (s : State) : Result := .next (windowPasses s)

/-- RECEIVE_CLOCK_LOSS: the watch reaches 20 ms (R46). -/
def execReceiveClockLoss (s : State) : Result :=
  .next (match s.mp.rxWatch with
    | some t =>
      if s.isLive && s.pins.dcd && !s.ofm.rxLoss then
        let s := advance (t + Config.clockWatch) s
        evaluate (reportClocks true s.ofm.txLoss s)
      else s
    | none => s)

/-- RECEIVE_CLOCK_RESUMES: an edge of RXC; a rising one samples RXD (R32, R46). -/
def execReceiveClockResumes (s : State) (edge : RxcEdge := .falling) : Result :=
  .next (match edge with
    | .falling => rxEdge s
    | .rising rxd q => rxcRises rxd q s)

/-- TRANSMIT_CLOCK_LOSS: the watch reaches 20 ms (R47). -/
def execTransmitClockLoss (s : State) : Result :=
  .next (match s.mp.txWatch with
    | some t =>
      if s.ptt && !s.ofm.txLoss then
        let s := advance (t + Config.clockWatch) s
        evaluate (reportClocks s.ofm.rxLoss true s)
      else s
    | none => s)

/-! ## Channel restart (R48, R63, R87, R135, R150) -/

/-- A FULL buffer is emptied; one IN HANDLING stays (R48). -/
def RxBuffer.discard : RxBuffer → RxBuffer
  | .inHandling bytes q => .inHandling bytes q
  | _ => .empty

/-- The receive side of MP at a channel restart: HUNTING with an empty register (R48, Table 3-1). One in UNKEYED and HUNTING with both buffers EMPTY empties a partly filled register too, against the sentence of R48 that it changes nothing at the port: the model's reading (n35). -/
def restartReceiver (s : State) : State :=
  s.withMp { s.mp.hunt (if s.isLive && !s.ptt then .hunting else .off) with
    buffers := s.mp.buffers.map RxBuffer.discard
    fullOrder := [] }

/-- AC is as a restart at this very moment has left it: no value has been drawn since (R150, n36). -/
def AccessController.justRestarted (a : AccessController) (now : Nat) : Bool := a.restart == some (now, a.generator)

/-- A channel restart at AC: any delay abandoned, ident-due set, a fresh evaluation (R150). -/
def restartAccess (s : State) : State :=
  let s := evaluateFresh (s.withAc { s.ac with identDue := true })
  s.withAc { s.ac with restart := some (s.now, s.ac.generator) }

/-- A channel restart at MP, MS and AC. One that finds AC KEYED makes one fresh evaluation, after ident-due is set: the one that the cut report asks for and the one of R150 step 4 are the same (n32). The second of two that arrive together finds AC as the first left it and only sets ident-due again (R150, n36). -/
def restartChannel (s : State) : State :=
  if s.ptt then restartAccess (restartReceiver (cutTrain s))
  else if s.ac.justRestarted s.now then (restartReceiver s).withAc { s.ac with identDue := true }
  else restartAccess (restartReceiver s)

/-- CHANNEL_RESTART: one request is carried out (R48, R63, R87, R150, n16). -/
def execChannelRestart (s : State) : Result :=
  .next (restartChannel (s.withOfm { s.ofm with requests := s.ofm.requests - 1 }))

end Sys2Proof.Machine
end

