-- ==== Sys2Proof/Machine/Trains.lean ====
section
/-! DEFINITION. Meanings of the transmission events: ACCESS_DELAY_END, KEYUP_EXPIRY, FRAME_SENT, TRAIN_ENDED, TIME_LIMIT_EXPIRY, TRANSMIT_CLOCK_RESUMES (R42 to R47, R140 to R146). -/

namespace Sys2Proof.Machine

/-- The access delay has ended: bars, carrier, keying (R137, R138, R140, R142). -/
def delayEnds (s : State) : State :=
  if !trainReady s then s.withAc (s.ac.rest .idle)
  else if barred s then s.withAc (s.ac.rest .barred)
  else if !carrierClear s then s.withAc (s.ac.rest .deferring)
  else keyTrain s

/-- ACCESS_DELAY_END, in COUNTING; MP takes a key request in UNKEYED in LIVE (R42, R140). -/
def execAccessDelayEnd (s : State) : Result :=
  .next (if s.ac.access = .counting && s.isLive && !s.ptt then delayEnds (advanceTo s.ac.delayEnd s) else s)

/-- KEYUP_EXPIRY: the timer has run out; the first frame waits for the next falling edge of TXC (R42, R47). -/
def execKeyupExpiry (s : State) : Result :=
  .next (match s.mp.keyupEnd with
    | some t =>
      if s.mp.key = .keyup then
        let s := advance t s
        s.withMp { s.mp with keyupEnd := none }
      else s
    | none => s)

/-- The last check bit of `f` has been driven: the frame is counted and reported, and AC chooses what follows (R43, R143). -/
def frameDriven (f : TxFrame) (s : State) : State := follow (reportSent f (countSent s))

/-- The next bit of frame `f` is driven (R43). -/
def driveBit (f : TxFrame) (s : State) : State :=
  let s := s.withMp (s.mp.driveFrame f)
  if f.position + 1 < f.bits.length then s else frameDriven f s

/-- The bits of frame `f` that are left are driven (R43). -/
def driveRest (f : TxFrame) (s : State) : State := driveBit { f with position := f.bits.length - 1 } s

/-- The eighth trailer bit's period ends: MP unkeys, a live TX-TIMEOUT ends, AC evaluates afresh (R44, R61, R144). -/
def trainEnds (s : State) : State := evaluateFresh (clearLive .txTimeout (unkey s))

/-- A falling edge of TXC while PTT is asserted: the bit that the key state calls for is driven (R32, R42 to R44). -/
def txcFalls (s : State) : State :=
  match s.mp.key, s.mp.frame with
  | .unkeyed, _ => s
  | .keyup, some f => if s.mp.keyupEnd.isSome then s.withMp s.mp.alternate else driveBit f s
  | .keyup, none => s.withMp s.mp.alternate
  | .sending, some f => driveBit f s
  | .sending, none => s.withMp (s.mp.driveTrailer 0)
  | .trailer n, _ => if n < 8 then s.withMp (s.mp.driveTrailer n) else trainEnds s

/-- TRANSMIT_CLOCK_RESUMES: an edge of TXC (R32, R47). -/
def execTransmitClockResumes (s : State) (edge : TxcEdge := .falling) : Result :=
  .next (match edge with
    | .rising => txEdge s
    | .falling => txcFalls (txEdge s))

/-- The frame whose last bit FRAME_SENT can drive: the one under way, or the one held while the key-up timer has run out (R42, R43). -/
def ModemPort.sendable (m : ModemPort) : Option TxFrame :=
  if m.key = .sending ∨ (m.key = .keyup ∧ m.keyupEnd = none) then m.frame else none

/-- FRAME_SENT: the falling edges of TXC up to the last check bit of the frame (R43, n4). -/
def execFrameSent (s : State) : Result :=
  .next (match s.mp.sendable with
    | some f => driveRest f (txEdge s)
    | none => s)

/-- The train's last frame is sent (R43). -/
def ModemPort.trailing (m : ModemPort) : Bool :=
  match m.key with
  | .sending => m.frame.isNone
  | .trailer _ => true
  | _ => false

/-- TRAIN_ENDED: the falling edges of TXC up to the one that ends the eighth trailer bit (R44, n4). -/
def execTrainEnded (s : State) : Result := .next (if s.mp.trailing then trainEnds (txEdge s) else s)

/-- TIME_LIMIT_EXPIRY: the train is cut and TX-TIMEOUT goes live (R45, R61, R146). -/
def execTimeLimitExpiry (s : State) : Result :=
  .next (match s.mp.limitEnd with
    | some t => if s.ptt then evaluateFresh (raiseFault .txTimeout (cutTrain (advance t s))) else s
    | none => s)

end Sys2Proof.Machine
end

