-- ==== Sys2Proof/Machine/Deadlines.lean ====
section
/-! DEFINITION. Meanings of the deadline and timer expiries of slots, receipt records, identification and the listening period (R82, R124, R132, R147, R149, R157). An expiry that finds its slot or record gone has no effect (R68, R132). -/

namespace Sys2Proof.Machine

/-- The deadline of slot `i` expires in state `st`: the clock is moved on to it and the rule of the state applies (R68). -/
def slotExpiry (i : Fin 64) (st : SlotState) (act : Slot → State → State) (s : State) : Result :=
  .next (match look s.ms.slots i with
    | some sl =>
      match sl.deadline with
      | some t => if sl.state = st then act sl (advance t s) else s
      | none => s
    | none => s)

/-- ASSEMBLY_DEADLINE_EXPIRY: FREE with DROPPED, not counted (R82). -/
def execAssemblyDeadlineExpiry (i : Fin 64) (s : State) : Result :=
  slotExpiry i .assembling (fun _ s => freeSlot i .dropped s) s

/-- RELAY_DEADLINE_EXPIRY: the slot enters QUEUED at the tail of its class queue (R124). -/
def execRelayDeadlineExpiry (i : Fin 64) (s : State) : Result := slotExpiry i .held (fun _ s => toQueueTail i s) s

/-- An originated message is given up (R157). -/
def giveUp (i : Fin 64) (id : Identity) (s : State) : State :=
  raiseNotice .failed (addOutcome id .failed (freeSlot i .failed s))

/-- The echo deadline expires (R157). -/
def echoExpires (i : Fin 64) (sl : Slot) (s : State) : State :=
  if sl.retries ≠ 0 then toQueueTail i (modSlot i (fun sl => { sl with retries := sl.retries - 1 }) s)
  else if sl.originated then giveUp i sl.id s
  else endRelayWork i s

/-- ECHO_DEADLINE_EXPIRY (R157). -/
def execEchoDeadlineExpiry (i : Fin 64) (s : State) : Result := slotExpiry i .await (echoExpires i) s

/-- A WAITING record becomes READY at its deadline (R132). -/
def Receipt.toReady (r : Receipt) (now : Nat) : Receipt := { r with state := .ready now }

/-- RECEIPT_DEADLINE_EXPIRY (R132). -/
def execReceiptDeadlineExpiry (id : Identity) (s : State) : Result :=
  .next (match (s.du.pool.find? fun r => r.id == id).bind Receipt.waitingUntil with
    | some t =>
      let s := advance t s
      withPool (s.du.pool.map fun r => if r.id = id then r.toReady s.now else r) s
    | none => s)

/-- IDENT_TIMER_EXPIRY (R147). -/
def execIdentTimerExpiry (s : State) : Result :=
  .next (match s.ac.identTimer with
    | some t =>
      let s := advance t s
      s.withAc { s.ac with identDue := true, identTimer := none }
    | none => s)

/-- BEACON_TIMER_EXPIRY: both flags set; a train is ready (R137, R147). -/
def execBeaconTimerExpiry (s : State) : Result :=
  .next (match s.ac.beaconTimer with
    | some t =>
      let s := advance t s
      evaluate (s.withAc { s.ac with identDue := true, beaconDue := true, beaconTimer := none })
    | none => s)

/-- LISTENING_PERIOD_END: its bar lifts (R138, R149). -/
def execListeningPeriodEnd (s : State) : Result :=
  .next (match s.ac.listenEnd with
    | some t =>
      let s := advance t s
      evaluate (s.withAc { s.ac with listenEnd := none })
    | none => s)

end Sys2Proof.Machine
end

