-- ==== Sys2Proof/Machine/Tables.lean ====
section
/-! DEFINITION. Meanings of the minute events of the two tables, of the visits of the sweep and of the aging pass, and of their completions (R100, R101, R111). -/

namespace Sys2Proof.Machine

/-- A minute event starts a sweep, or leaves one waiting behind the one under way (R100). -/
def IdTable.minuteEvent (t : IdTable) (at_ : Nat) : IdTable :=
  { t with
    minuteAt := some (at_ + Config.minute)
    sweep := some (t.sweep.getD 0)
    waiting := t.sweep.isSome }

/-- IDENTITY_TABLE_MINUTE_EVENT (R100). -/
def execIdentityTableMinuteEvent (s : State) : Result :=
  .next (match s.idt.minuteAt with
    | some t => let s := advance t s; s.withIdt (s.idt.minuteEvent t)
    | none => s)

/-- The sweep visits its next bucket (R100). -/
def IdTable.sweepVisit (life : Nat) (t : IdTable) : IdTable :=
  match t.sweep with
  | some b => if h : b < 512 then { t.visit life ⟨b, h⟩ with sweep := some (b + 1) } else t
  | none => t

/-- SWEEP_VISIT (R100, R101). -/
def execSweepVisit (s : State) : Result := .next (s.withIdt (s.idt.sweepVisit s.ol.settings.idlife))

/-- All buckets visited: every fresh mark is set to no, and a waiting sweep starts (R100). -/
def IdTable.sweepComplete (t : IdTable) : IdTable :=
  match t.sweep with
  | some b => if b < 512 then t else { t.clearFresh with sweep := if t.waiting then some 0 else none, waiting := false }
  | none => t

/-- SWEEP_COMPLETES (R100). -/
def execSweepCompletes (s : State) : Result := .next (s.withIdt s.idt.sweepComplete)

/-- A minute event starts an aging pass over the entries present, or leaves one waiting (R111). -/
def DistTable.minuteEvent (t : DistTable) (at_ : Nat) : DistTable :=
  { t with
    minuteAt := some (at_ + Config.minute)
    pass := some (t.pass.getD t.codes)
    waiting := t.pass.isSome }

/-- DISTANCE_TABLE_MINUTE_EVENT (R111). -/
def execDistanceTableMinuteEvent (s : State) : Result :=
  .next (match s.dt.minuteAt with
    | some t => let s := advance t s; s.withDt (s.dt.minuteEvent t)
    | none => s)

/-- The aging pass visits the next of its entries; one that has been removed has left the pass (R111). -/
def DistTable.passVisit (centre : Bool) (routelife : Nat) (t : DistTable) : DistTable :=
  match t.pass with
  | some (c :: rest) => { t.visit centre routelife c with pass := some rest }
  | _ => t

/-- AGING_PASS_VISIT (R111). -/
def execAgingPassVisit (s : State) : Result := .next (s.withDt (s.dt.passVisit s.ol.centre s.ol.settings.routelife))

/-- No entry of the pass is left to visit. -/
def DistTable.passDone (t : DistTable) : Bool := t.pass == some []

/-- The pass completes: every fresh mark is set to no, and a waiting pass starts (R111). -/
def DistTable.passComplete (t : DistTable) : DistTable :=
  if t.passDone then { t.clearFresh with pass := if t.waiting then some t.codes else none, waiting := false } else t

/-- AGING_PASS_COMPLETES (R111). -/
def execAgingPassCompletes (s : State) : Result := .next (s.withDt s.dt.passComplete)

end Sys2Proof.Machine
end

