-- ==== Sys2Proof/Machine/SelfTest.lean ====
section
/-! DEFINITION. The four self-tests, run on the model's own functions, and SELF_TEST_COMPLETE (R31, R50, R88, R103, R173). The built-in values that the spec does not give are the model's (n15). -/

namespace Sys2Proof.Machine

/-! ## Built-in frames (n15) -/

/-- The built-in header: sender 1, tier 15, distance 15, CENTRE 0, CONGESTED 0 (R31). -/
def testHeader (kind : Nibble) : Header := ⟨kind, false, false, 1, 15, 15⟩

/-- The built-in TRAFFIC fields: one segment of three bytes. -/
def testTraffic : Traffic := ⟨679, 1, 4660, 1460, 6, 0, 0, 3, 0, [0x41, 0x42, 0x43]⟩

/-- The built-in RECEIPT fields. -/
def testReceipt : ReceiptFrame := ⟨679, 1, 4660, 1460, 6, 0⟩

/-- The built-in callsign. -/
def testCall : Text := txt "KD2QRT"

/-- A BEACON-shaped frame with a callsign. -/
def testBeacon (call : Text) : List Byte := frameBytes (testHeader 3) call

/-! ## TEST 2: check and validation (R31) -/

/-- The reference vector (R17, R31 part 1). -/
def vectorOk : Bool := crc [0x31, 0x32, 0x33, 0x34, 0x35, 0x36, 0x37, 0x38, 0x39] == 0x906E

/-- The three frames as composed (R31 part 2). -/
def composedFrames : List (List Byte) :=
  [frameBytes (testHeader 1) (trafficBytes testTraffic), frameBytes (testHeader 2) (receiptBytes testReceipt), testBeacon testCall]

/-- Built-in copies of the three frames, check included (R31 part 2). -/
def builtInFrames : List (List Byte) :=
  [[0x01, 0x01, 0xF0, 0x0F, 0x0C, 0xA7, 0x12, 0x34, 0x12, 0xB4, 0x65, 0x00, 0x03, 0x00, 0x41, 0x42, 0x43, 0xE6, 0xEE],
    [0x02, 0x01, 0xF0, 0x0F, 0x07, 0xA7, 0x12, 0x34, 0x12, 0xB4, 0x65, 0x00, 0x00, 0x29],
    [0x03, 0x01, 0xF0, 0x0F, 0x06, 0x4B, 0x44, 0x32, 0x51, 0x52, 0x54, 0xBD, 0x85]]

/-- A frame with bit 0 of its last check byte inverted. -/
def spoilCheck (f : List Byte) : List Byte := f.dropLast ++ [f.getLast?.getD 0 ^^^ 1]

/-- The frames of part 3 with the built-in own code and the verdict expected (R31 part 3). -/
def validationCases : List (List Byte × Code × Verdict) :=
  (composedFrames.map fun f => (f, 2, Verdict.accepted))
    ++ (composedFrames.map fun f => (spoilCheck f, 2, Verdict.checkfail))
    ++ [(frameBytes (testHeader 1) (trafficBytes { testTraffic with index := 1 }), 2, .malformed),
      (frameBytes (testHeader 1)
        (trafficBytes { testTraffic with index := 2, bodyLength := 150, countM1 := 2, data := List.replicate 64 0x41 }), 2, .malformed),
      (frameBytes (testHeader 2) (receiptBytes testReceipt ++ [0]), 2, .malformed),
      (testBeacon (txt "Kd2QRT"), 2, .malformed),
      (frameBytes { testHeader 3 with sender := 4094 } testCall, 2, .malformed),
      (testBeacon testCall, 1, .clash)]

/-- TEST 2 (R31). -/
def framesTest : Bool :=
  vectorOk && composedFrames == builtInFrames && validationCases.all fun c => validate (some c.2.1) c.1 == c.2.2

/-! ## TEST 1: loopback (R50) -/

/-- The loopback path: the port's receive side, joined to the bit stream, and the test's own record of what the samples brought (R50). -/
structure Loop where
  mp     : ModemPort
  record : List Received
deriving DecidableEq, Repr

/-- The assembler at the start of the test, its DCD input held asserted. -/
def Loop.start : Loop := ⟨ModemPort.reset.hunt .hunting, []⟩

/-- One bit of the stream received (R35 to R40). -/
def Loop.bit (l : Loop) (b : Bool) : Loop :=
  match l.mp.sample 0 b with
  | (m, .nothing) => ⟨m, l.record⟩
  | (m, e) => ⟨m, l.record ++ [e]⟩

/-- Bits received one after another. -/
def Loop.run (l : Loop) (bits : List Bool) : Loop := bits.foldl Loop.bit l

/-- Both buffers emptied, and a new record. -/
def Loop.emptied (l : Loop) : Loop := ⟨{ l.mp with buffers := Vector.replicate 2 .empty, fullOrder := [] }, []⟩

/-- A new record, the buffers as they are. -/
def Loop.fresh (l : Loop) : Loop := ⟨l.mp, []⟩

/-- The internal DCD ends (R39). -/
def Loop.dcdEnds (l : Loop) : Loop := ⟨l.mp.loseCarrier, l.record⟩

/-- The bits of a frame with its sync (R14). -/
def airBits (f : List Byte) : List Bool := frameBits (syncBytes ++ f)

/-- The three built-in frames: callsigns of 3, 10 and 6 characters (R50). -/
def loopFrames : List (List Byte) := [testBeacon (txt "ZZ9"), testBeacon (txt "KD2QRT/P41"), testBeacon testCall]

/-- Sixteen alternating bits, the three frames, eight one-bits (R50 part 1). -/
def loopStream : List Bool :=
  (List.range 16).map (fun i => i % 2 == 1) ++ loopFrames.flatMap airBits ++ List.replicate 8 true

/-- A header whose length byte is 74 (R50 part 3). -/
def longHeader : List Byte := headerBytes (testHeader 3) 74

/-- The first built-in frame. -/
def firstLoopFrame : List Byte := loopFrames.headD []

/-- The loopback path after the stream of part 1. -/
def loopAfterStream : Loop := Loop.start.run loopStream

/-- The loopback path after part 3: both buffers emptied, a header of length 74 sent. -/
def loopAfterLong : Loop := loopAfterStream.emptied.run (airBits longHeader)

/-- The loopback path after part 4: the first frame again. -/
def loopAfterAgain : Loop := loopAfterLong.fresh.run (airBits firstLoopFrame)

/-- The loopback path in part 5: the first frame up to its second-to-last byte. -/
def loopBeforeCut : Loop := loopAfterAgain.fresh.run (airBits firstLoopFrame.dropLast)

/-- The buffers and what the samples brought are as expected, and the assembler is in the state expected. -/
def Loop.is (l : Loop) (a : Assembler) (buffers : List RxBuffer) (record : List Received) : Bool :=
  l.mp.assembler == a && l.mp.buffers.toList == buffers && l.record == record

/-- TEST 1 (R50). -/
def loopbackTest : Bool :=
  loopAfterStream.is .hunting ((loopFrames.take 2).map fun f => .full f 0) [.claimed, .completed, .claimed, .completed, .overrun, .passed]
    && loopAfterLong.is .hunting [.empty, .empty] [.claimed, .abandoned]
    && loopAfterAgain.is .hunting [.full firstLoopFrame 0, .empty] [.claimed, .completed]
    && loopBeforeCut.is (.gathering 1) [.full firstLoopFrame 0, .filling firstLoopFrame.dropLast] [.claimed]
    && loopBeforeCut.dcdEnds.is .hunting [.full firstLoopFrame 0, .empty] [.claimed]

/-! ## TEST 3: identity table (R103) -/

/-- The bucket of the built-in identities. -/
def testBucket : Fin 512 := 68

/-- 260 identities of bucket 68: origins 7, 39, 679, 711, serials whose low 9 bits are 0x034 (R103). -/
def crowd : List Identity :=
  (List.range 65).flatMap fun j =>
    ([7, 39, 679, 711] : List Code).map fun o => ⟨o, BitVec.ofNat 16 (0x034 + 512 * j)⟩

/-- Identities and the buckets expected (R92, R103 part 1). -/
def hashCases : List (Identity × Fin 512) :=
  [(⟨679, 4660⟩, 68), (⟨711, 52⟩, 68), (⟨1447, 564⟩, 68), (⟨1, 0⟩, 16), (⟨1, 511⟩, 495), (⟨4093, 65535⟩, 47)]

/-- An insert whose outcome must be an inserted entry. -/
def insertStep (t : Option IdTable) (i : Identity) : Option IdTable :=
  t.bind fun t =>
    match t.insert i .seen false with
    | .inserted t => some t
    | _ => none

/-- A slot link on every entry of the table set or removed, as part 4 marks and unmarks them. -/
def IdTable.markAll (t : IdTable) (link : Option (Fin 64)) : IdTable :=
  let f (e : Entry) : Entry := { e with link := link }
  { t with
    buckets := t.buckets.map fun b => { b with primA := b.primA.map f, primB := b.primB.map f }
    overflow := t.overflow.map fun o => { o with entry := o.entry.map f } }

/-- One sweep over all buckets with a removal threshold. -/
def IdTable.sweepAll (t : IdTable) (life : Nat) : IdTable := (List.finRange 512).foldl (IdTable.visit life) t

/-- Part 2: the places of the 258 identities, in lookup order (R103). -/
def crowdPlaced (t : IdTable) : Bool :=
  (crowd.take 258).all (fun i => (t.find i).isSome) && t.chain testBucket == (List.finRange 256).reverse
    && t.holds (crowd.getD 0 ⟨0, 0⟩) (.primA testBucket) && t.holds (crowd.getD 1 ⟨0, 0⟩) (.primB testBucket)

/-- Part 3: primary A overwritten, its identity forgotten (R96). -/
def crowdEvicted (t : IdTable) : Bool :=
  t.holds (crowd.getD 258 ⟨0, 0⟩) (.primA testBucket) && (t.find (crowd.getD 0 ⟨0, 0⟩)).isNone

/-- Part 5: the table after the sweep (R101). -/
def sweptClean (t : IdTable) : Bool :=
  t.valid == 0 && (t.chain testBucket).isEmpty && t.free.length == 256 && (List.finRange 256).all fun i => t.free.contains i

/-- TEST 3 on a table (R103). -/
def identitiesTest (t : IdTable) : Bool :=
  hashCases.all (fun c => bucketOf c.1 == c.2) &&
    match (crowd.take 258).foldl insertStep (some t) with
    | none => false
    | some t =>
      crowdPlaced t &&
        match insertStep (some t) (crowd.getD 258 ⟨0, 0⟩) with
        | none => false
        | some t =>
          crowdEvicted t && (t.markAll (some 0)).insert (crowd.getD 259 ⟨0, 0⟩) .seen false == .failed
            && sweptClean (t.sweepAll 1)

/-! ## TEST 4: store (R88) -/

/-- The store and the Identity Table as the store test works them. -/
structure Bench where
  ms  : Store
  idt : IdTable
deriving DecidableEq, Repr

/-- The identity of the test's message number `n`; the buckets of 0 to 48 are distinct (n15). -/
def benchId (n : Nat) : Identity := ⟨1, BitVec.ofNat 16 (n + 1)⟩

/-- The record of the test's message number `n`: 8 segments, relay-only, HELD (R88). -/
def benchSlot (cls : MsgClass) (n : Nat) : Slot where
  state := .held
  id := benchId n
  dest := 2
  cls := cls
  budget := 6
  used := 0
  bodyLength := 512
  count := 8
  blocks := Vector.replicate 8 none
  originated := false
  relay := true
  deliverHere := false
  unread := false
  answered := false
  heard := []
  retries := 1
  resumeAt := 0
  deadline := some 0
  sentDist := none
  q := 0
  completion := n

/-- A message is created in the lowest FREE slot and entered in the Identity Table; none if anything differs from what is expected: slot and blocks. -/
def Bench.create (b : Bench) (cls : MsgClass) (n : Nat) (slot : Fin 64) (blocks : List (Fin 384)) : Option Bench :=
  match b.ms.lowestFree, b.idt.insert (benchId n) .stored false with
  | some i, .inserted t =>
    let ms := (b.ms.occupy i (benchSlot cls n)).attachAll i (cutBody (List.replicate 512 0x41))
    if i = slot ∧ ((look ms.slots i).map Slot.attached) = some blocks then some ⟨ms, t.link (benchId n) i⟩ else none
  | _, _ => none

/-- A slot goes FREE and its entry is removed (R88). -/
def Bench.free (b : Bench) (i : Fin 64) : Bench :=
  match look b.ms.slots i with
  | some sl => ⟨b.ms.release i, b.idt.withdraw sl.id⟩
  | none => b

/-- Eight blocks from `8 n` on. -/
def eightBlocks (n : Nat) : List (Fin 384) := (List.range 8).map fun j => Fin.ofNat 384 (8 * n + j)

/-- Part 1, one message: creation, and CONGESTED from message 42 on (R88). -/
def fillStep (b : Option Bench) (n : Nat) : Option Bench :=
  (b.bind fun b => b.create .routine n (Fin.ofNat 64 n) (eightBlocks n)).bind fun b =>
    if b.ms.congested = decide (42 ≤ n) then some b else none

/-- Parts 2 to 4 after the filling; the store as the test leaves it if every outcome matches (R88). -/
def benchAfterFill (b : Bench) : Option Bench :=
  if b.ms.freeSlots = 16 ∧ b.ms.freeBlocks = 0 ∧ b.ms.plan .routine 0 1 = none ∧ b.ms.plan .urgent 1 8 = some [0] then
    ((b.free 0).create .urgent 48 0 (eightBlocks 0)).map fun b => (List.finRange 64).foldl Bench.free b
  else none

/-- TEST 4: the store and table that the test leaves before it rebuilds the free list, if every outcome of parts 1 to 3 matches (R88). -/
def benchRun (ms : Store) (t : IdTable) : Option Bench :=
  ((List.range 48).foldl fillStep (some ⟨ms, t⟩)).bind benchAfterFill

/-- Part 4: everything free, no block twice, no entry left (R88). -/
def benchEmpty (b : Bench) : Bool :=
  b.ms.freeSlots == 64 && b.ms.freeBlocks == 384 && !b.ms.congested
    && (List.finRange 384).all (fun i => b.ms.free.contains i) && b.idt.valid == 0

/-- TEST 4 (R88). -/
def storeTest (ms : Store) (t : IdTable) : Bool := (benchRun ms t).any benchEmpty

/-! ## Completion (R173) -/

/-- The number of a test. -/
def SelfTest.num : SelfTest → Nat
  | .loopback => 1
  | .frames => 2
  | .identities => 3
  | .store => 4

/-- The outcome of a test run on the part as it stands. -/
def SelfTest.passes (t : SelfTest) (s : State) : Bool :=
  match t with
  | .loopback => loopbackTest
  | .frames => framesTest
  | .identities => identitiesTest s.idt
  | .store => storeTest s.ms s.idt

/-- What a test leaves: TEST 3 and TEST 4 leave the table as after reset, TEST 4 the store as well, less the blocks' bytes, which stay as last written (R69, R88, R103, n26). -/
def SelfTest.leaves (t : SelfTest) (s : State) : State :=
  match t with
  | .loopback | .frames => s
  | .identities => s.withIdt IdTable.reset
  | .store =>
    (s.withMs { Store.reset with blocks := ((benchRun s.ms s.idt).map fun b => b.ms.blocks).getD s.ms.blocks }).withIdt IdTable.reset

/-- The line that reports a test (R173). -/
def testLine (t : SelfTest) (pass : Bool) : Text :=
  unwords [txt "+TEST", decimal t.num, if pass then txt "PASS" else txt "FAIL"]

/-- The running test completes; its report is no answer to the command line taken last (R170, R173). -/
def completeTest (t : SelfTest) (s : State) : State :=
  let r := t.passes s
  let s := t.leaves s
  compose [⟨testLine t r, true⟩] (s.withOl { s.ol with selfTest := none })

/-- SELF_TEST_COMPLETE (R173). -/
def execSelfTestComplete (s : State) : Result :=
  .next (match s.ol.selfTest with
    | some t => completeTest t s
    | none => s)

end Sys2Proof.Machine
end

