-- ==== Sys2Proof/Machine/Dispatch.lean ====
section
/-! DEFINITION. One arm per command: the effect of a command on everything but the queue. -/

namespace Sys2Proof.Machine

def exec (i : Instr) (s : State) : Host.Outcome State Fault Refusal :=
  match i with
  | .reset orate => Sys2Proof.Machine.execReset orate s
  | .characterReceived ch framingError => Sys2Proof.Machine.execCharacterReceived ch framingError s
  | .oholdAsserted => Sys2Proof.Machine.execOholdAsserted s
  | .oholdDeasserted => Sys2Proof.Machine.execOholdDeasserted s
  | .characterSent => Sys2Proof.Machine.execCharacterSent s
  | .outputPlaced => Sys2Proof.Machine.execOutputPlaced s
  | .noticeEmitted => Sys2Proof.Machine.execNoticeEmitted s
  | .unknownCommand line => Sys2Proof.Machine.execUnknownCommand line s
  | .code args => Sys2Proof.Machine.execCode args s
  | .call args => Sys2Proof.Machine.execCall args s
  | .centre args => Sys2Proof.Machine.execCentre args s
  | .hops args => Sys2Proof.Machine.execHops args s
  | .timing args => Sys2Proof.Machine.execTiming args s
  | .classCmd args => Sys2Proof.Machine.execClass args s
  | .span args => Sys2Proof.Machine.execSpan args s
  | .faultsel args => Sys2Proof.Machine.execFaultsel args s
  | .test1 args => Sys2Proof.Machine.execTest1 args s
  | .test2 args => Sys2Proof.Machine.execTest2 args s
  | .test3 args => Sys2Proof.Machine.execTest3 args s
  | .test4 args => Sys2Proof.Machine.execTest4 args s
  | .selfTestComplete => Sys2Proof.Machine.execSelfTestComplete s
  | .onair args => Sys2Proof.Machine.execOnair args s
  | .status args => Sys2Proof.Machine.execStatus args s
  | .post args => Sys2Proof.Machine.execPost args s
  | .bodyLine line => Sys2Proof.Machine.execBodyLine line s
  | .closingLine => Sys2Proof.Machine.execClosingLine s
  | .fetch args => Sys2Proof.Machine.execFetch args s
  | .fetchComplete => Sys2Proof.Machine.execFetchComplete s
  | .cancel args => Sys2Proof.Machine.execCancel args s
  | .list args => Sys2Proof.Machine.execList args s
  | .routes args => Sys2Proof.Machine.execRoutes args s
  | .outcomes args => Sys2Proof.Machine.execOutcomes args s
  | .pin args => Sys2Proof.Machine.execPin args s
  | .unpin args => Sys2Proof.Machine.execUnpin args s
  | .purge args => Sys2Proof.Machine.execPurge args s
  | .mask args => Sys2Proof.Machine.execMask args s
  | .unmask args => Sys2Proof.Machine.execUnmask args s
  | .faultclr args => Sys2Proof.Machine.execFaultclr args s
  | .quiet args => Sys2Proof.Machine.execQuiet args s
  | .resume args => Sys2Proof.Machine.execResume args s
  | .restart args => Sys2Proof.Machine.execRestart args s
  | .channelRestart => Sys2Proof.Machine.execChannelRestart s
  | .dcdAsserted => Sys2Proof.Machine.execDcdAsserted s
  | .dcdDeasserted => Sys2Proof.Machine.execDcdDeasserted s
  | .syncFound samples => Sys2Proof.Machine.execSyncFound s samples
  | .frameAbandoned samples => Sys2Proof.Machine.execFrameAbandoned samples s
  | .skippedFramePassed samples => Sys2Proof.Machine.execSkippedFramePassed samples s
  | .frameCompletes samples qual => Sys2Proof.Machine.execFrameCompletes samples qual s
  | .frameTaken => Sys2Proof.Machine.execFrameTaken s
  | .handlingEnds => Sys2Proof.Machine.execHandlingEnds s
  | .windowEnd => Sys2Proof.Machine.execWindowEnd s
  | .receiveClockLoss => Sys2Proof.Machine.execReceiveClockLoss s
  | .receiveClockResumes edge => Sys2Proof.Machine.execReceiveClockResumes s edge
  | .transmitClockLoss => Sys2Proof.Machine.execTransmitClockLoss s
  | .transmitClockResumes edge => Sys2Proof.Machine.execTransmitClockResumes s edge
  | .accessDelayEnd => Sys2Proof.Machine.execAccessDelayEnd s
  | .keyupExpiry => Sys2Proof.Machine.execKeyupExpiry s
  | .frameSent => Sys2Proof.Machine.execFrameSent s
  | .trainEnded => Sys2Proof.Machine.execTrainEnded s
  | .timeLimitExpiry => Sys2Proof.Machine.execTimeLimitExpiry s
  | .assemblyDeadlineExpiry slot => Sys2Proof.Machine.execAssemblyDeadlineExpiry slot s
  | .relayDeadlineExpiry slot => Sys2Proof.Machine.execRelayDeadlineExpiry slot s
  | .echoDeadlineExpiry slot => Sys2Proof.Machine.execEchoDeadlineExpiry slot s
  | .receiptDeadlineExpiry id => Sys2Proof.Machine.execReceiptDeadlineExpiry id s
  | .identTimerExpiry => Sys2Proof.Machine.execIdentTimerExpiry s
  | .beaconTimerExpiry => Sys2Proof.Machine.execBeaconTimerExpiry s
  | .listeningPeriodEnd => Sys2Proof.Machine.execListeningPeriodEnd s
  | .identityTableMinuteEvent => Sys2Proof.Machine.execIdentityTableMinuteEvent s
  | .sweepVisit => Sys2Proof.Machine.execSweepVisit s
  | .sweepCompletes => Sys2Proof.Machine.execSweepCompletes s
  | .distanceTableMinuteEvent => Sys2Proof.Machine.execDistanceTableMinuteEvent s
  | .agingPassVisit => Sys2Proof.Machine.execAgingPassVisit s
  | .agingPassCompletes => Sys2Proof.Machine.execAgingPassCompletes s

end Sys2Proof.Machine
end

