-- ==== Sys2Proof/Machine/Idle.lean ====
section
/-! DEFINITION. What the part does on its own when no command waits (n1): the event that is due now, in a fixed order (n20), or a millisecond passes. Events whose moment the spec does not fix are left to the sender (n25). -/

namespace Sys2Proof.Machine

/-- A deadline has been reached. -/
def dueAt (now : Nat) (t : Option Nat) : Bool :=
  match t with
  | some t => decide (t ≤ now)
  | none => false

/-- A row, if its condition holds. -/
def rowIf (b : Bool) (c : Instr) : List Instr := if b then [c] else []

/-- Events that follow from the state at once, without waiting: a requested restart, a FULL buffer before an idle FH, output that fits, a notice, a line of input (R22, R63, R169, R170, R177). -/
def atOnce (s : State) : List Instr :=
  rowIf (decide (0 < s.ofm.requests)) .channelRestart
    ++ rowIf s.mp.nextTaken.isSome .frameTaken
    ++ rowIf (decide ((placeLines s.ol.waiting s.ol.output).2.length < s.ol.waiting.length)) .outputPlaced
    ++ rowIf s.ol.emittable.isSome .noticeEmitted
    ++ (if s.ol.answered then (headRow s.ol).toList else [])

/-- The expiry of a slot's deadline, by its state (Table 5-3). -/
def slotRow (now : Nat) (i : Fin 64) (sl : Slot) : List Instr :=
  if dueAt now sl.deadline then
    match sl.state with
    | .assembling => [.assemblyDeadlineExpiry i]
    | .held => [.relayDeadlineExpiry i]
    | .await => [.echoDeadlineExpiry i]
    | _ => []
  else []

/-- The slots' deadlines that are due. -/
def slotRows (now : Nat) (m : Store) : List Instr :=
  (List.finRange 64).flatMap fun i =>
    match look m.slots i with
    | some sl => slotRow now i sl
    | none => []

/-- The receipt records' deadlines that are due. -/
def receiptRows (now : Nat) (pool : List Receipt) : List Instr :=
  (pool.filter fun r => dueAt now r.waitingUntil).map fun r => .receiptDeadlineExpiry r.id

/-- The timers that are due. -/
def timerRows (s : State) : List Instr :=
  rowIf (dueAt s.now (s.ofm.window.map Window.endsAt)) .windowEnd
    ++ rowIf (s.ac.access == .counting && s.isLive && !s.ptt && dueAt s.now s.ac.delayEnd) .accessDelayEnd
    ++ rowIf (s.mp.key == .keyup && dueAt s.now s.mp.keyupEnd) .keyupExpiry
    ++ rowIf (s.ptt && dueAt s.now s.mp.limitEnd) .timeLimitExpiry
    ++ slotRows s.now s.ms ++ receiptRows s.now s.du.pool
    ++ rowIf (dueAt s.now s.ac.identTimer) .identTimerExpiry
    ++ rowIf (dueAt s.now s.ac.beaconTimer) .beaconTimerExpiry
    ++ rowIf (dueAt s.now s.ac.listenEnd) .listeningPeriodEnd
    ++ rowIf (dueAt s.now s.idt.minuteAt) .identityTableMinuteEvent
    ++ rowIf (dueAt s.now s.dt.minuteAt) .distanceTableMinuteEvent

/-- Passes over the tables with nothing left to visit (R100, R111). -/
def passRows (s : State) : List Instr :=
  rowIf (s.idt.sweep.any fun b => decide (512 ≤ b)) .sweepCompletes ++ rowIf s.dt.passDone .agingPassCompletes

/-- The event that comes next of itself, if one is due. -/
def nextEvent (s : State) : Option Instr := (atOnce s ++ timerRows s ++ passRows s).head?

end Sys2Proof.Machine
end

