-- ==== Sys2Proof/Machine/Step.lean ====
section
/-! DEFINITION. One step: the command at the front of the queue; on an empty queue the event that is due, or a millisecond (n1). -/

namespace Sys2Proof.Machine

/-- What the part does when no command waits (n1). -/
def idle (s : State) : Host.Outcome State Fault Refusal :=
  match nextEvent s with
  | some c => exec c s
  | none => .next (advance (s.now + 1) s)

/-- One step of the part. -/
def step (s : State) : Host.Outcome State Fault Refusal :=
  match s.pending with
  | c :: rest => exec c (s.withPending rest)
  | [] => idle s

/-- The state with the command that a table word spells at the front of the queue: unchanged, as no word spells one (n24). -/
def State.withFetchWord (s : State) (nbits w : Nat) : State :=
  match decodeTableWord nbits w with
  | some c => s.withPending (c :: s.pending)
  | none => s

end Sys2Proof.Machine
end

