-- ==== Sys2Proof/Safety.lean ====
section
/-! DEFINITION. What statements about the part are stated in: how a command line is answered, which phase a command needs, and the invariants of the blocks. -/

namespace Sys2Proof.Machine

/-! ## Answers on the operator line -/

/-- Lines as they stand in the output buffer. -/
def render (ls : List OutLine) : Text := ls.flatMap fun l => l.text ++ crlf

/-- A line with the traffic of the operator line (its input lines, ORDY, its output, what is being sent, what waits and which notice waits for it) taken from another. -/
def OperatorLine.calm (o like : OperatorLine) : OperatorLine :=
  { o with
    lines := like.lines
    ordy := like.ordy
    output := like.output
    sending := like.sending
    waiting := like.waiting
    blockOpen := like.blockOpen
    unmasking := like.unmasking
    fetchLeft := like.fetchLeft }

/-- A state with the traffic of the operator line taken from another: two states are equal but for it when their calm forms are. -/
def State.calm (t s : State) : State := t.withOl (t.ol.calm s.ol)

/-- A command line of phase `p` is taken by its own rule: the last taken command has placed its answer, no body is collected, no self-test runs (R170). -/
def CanTake (p : Phase) (s : State) : Prop :=
  s.ol.phase = p ∧ s.ol.answered = true ∧ s.ol.post = none ∧ s.ol.selfTest = none

/-- From `s` to `t` the lines that waited, and then `ls`, were placed at the tail of the output while they fitted, the others wait, and sending has begun if it can. -/
structure Placed (ls : List OutLine) (s t : State) : Prop where
  placed    : ∃ done, s.ol.waiting ++ ls = done ++ t.ol.waiting ∧ t.ol.output = s.ol.output ++ render done
    ∧ ∀ a l b, done = a ++ l :: b → (s.ol.output ++ render a).length + l.text.length + 2 ≤ Config.outputCapacity
  waits     : ∀ l rest, t.ol.waiting = l :: rest → Config.outputCapacity < t.ol.output.length + l.text.length + 2
  sending   : t.ol.sending = (s.ol.sending || (!t.ol.output.isEmpty && !t.pins.ohold))
  blockOpen : t.ol.blockOpen =
    blockUnderWay s.ol.blockOpen (s.ol.waiting ++ ls) t.ol.waiting
  unmasking : t.ol.unmasking = if t.ol.answered then none else s.ol.unmasking
  fetchLeft : t.ol.fetchLeft =
    if t.du.fetchRef.isSome && s.ol.fetchLeft.isNone && t.ol.answered then some t.ol.output.length else s.ol.fetchLeft

/-- The command line that row `c` stands for left the input buffer, and its answer is `ls`. -/
structure Replied (c : Instr) (ls : List Text) (s t : State) : Prop extends Placed (answerLines ls) s t where
  lines : t.ol.lines = (s.ol.takeLine c).lines
  ordy  : t.ol.ordy = (s.ol.takeLine c).ordy

/-- Command `c`, run at `s`, is answered with `ls`, and but for the traffic of the operator line leaves the part as `r`. -/
def Answered (c : Instr) (ls : List Text) (r s : State) : Prop :=
  ∃ t, exec c s = .next t ∧ Replied c ls s t ∧ t.calm s = r

/-- The phase that a command line needs; `some none` for STATUS and POST, which are taken in both (Table 11-1). -/
def commandPhase : Instr → Option (Option Phase)
  | .code _ | .call _ | .centre _ | .hops _ | .timing _ | .classCmd _ | .span _ | .faultsel _ => some (some .setup)
  | .test1 _ | .test2 _ | .test3 _ | .test4 _ | .onair _ => some (some .setup)
  | .status _ | .post _ => some none
  | .fetch _ | .cancel _ | .list _ | .routes _ | .outcomes _ | .pin _ | .unpin _ | .purge _ => some (some .live)
  | .mask _ | .unmask _ | .faultclr _ | .quiet _ | .resume _ | .restart _ => some (some .live)
  | _ => none

/-- Arguments that a command's own rule refuses with SYNTAX (Table 11-1, Table 11-2). -/
def badArgs : Instr → Bool
  | .code a | .pin a | .unpin a => (codeArg a).isNone
  | .call a => (callArg a).isNone
  | .centre a => (switchArg a).isNone
  | .hops a => (oneNumber a).isNone
  | .timing a => (timingArgs a).isNone
  | .classCmd a => (classArgs a).isNone
  | .span a => (spanArgs a).isNone
  | .faultsel a => (faultselArgs a).isNone
  | .fetch a => (fetchArg a).isNone
  | .cancel a => (serialArg a).isNone
  | .mask a => noticeArg a == none || noticeArg a == some .inboxLife
  | .unmask a => (noticeArg a).isNone
  | .test1 a | .test2 a | .test3 a | .test4 a | .onair a | .status a | .list a | .routes a | .outcomes a => !a.isEmpty
  | .purge a | .faultclr a | .quiet a | .resume a | .restart a => !a.isEmpty
  | _ => false

/-! ## Situations -/

/-- The bytes of a completed frame: the length byte is at most 73 and header, payload and check are all there (R37, R38). -/
def frameBytesOk (bytes : List Byte) : Bool :=
  payloadLength bytes ≤ Config.maxPayload && bytes.length == 7 + payloadLength bytes

/-- A closing line meets a POST that passes every check: `a` holds its destination, class and hops, and `own` is the own code (R172). -/
structure PostReady (s : State) (c : Collection) (a : Code × MsgClass × Option Nat) (own : Code) : Prop where
  collected : s.ol.post = some c
  live      : s.ol.phase = .live
  code      : s.ol.ownCode = some own
  args      : postArgs s.ol.ownCode c.args = some a
  unmarked  : c.overrun = false ∧ c.tooLong = false ∧ c.badChar = false
  whole     : c.total = c.body.length
  size      : 1 ≤ c.total ∧ c.total ≤ 512

/-- MP is driving frame `f`, or holds it with the key-up timer run out, so that the next falling edge of TXC drives its next bit (R42, R43). -/
def Sends (s : State) (f : TxFrame) : Prop :=
  s.mp.frame = some f ∧ (s.mp.key = .sending ∨ (s.mp.key = .keyup ∧ s.mp.keyupEnd = none))

/-- The common header of an outgoing frame of a kind and a distance: CENTRE, CONGESTED, own code and own tier as they are (R18). -/
def headerSent (s : State) (kind dist : Nibble) : Header := ⟨kind, s.ol.centre, s.ms.congested, s.ol.ownCode.getD 0, s.dt.ownTier, dist⟩

/-- A frame as MP takes it: the sync, header, payload and check, no bit driven yet (R14, R43). -/
def frameOf (item : TxItem) (h : Header) (p : List Byte) : TxFrame := ⟨item, [0x5A, 0xC3, 0x96] ++ frameBytes h p, h.dist, 0⟩

/-- The BEACON frame of the part: distance 15 and the callsign (R19, R21). -/
def beaconOf (s : State) : TxFrame := frameOf .beacon (headerSent s 3 15) (s.ol.callsign.getD [])

/-- The TRAFFIC frame of segment `k` of slot `i`, with the own distance to its destination: a message posted here goes out with its budget and hops used as stored, another with its effective budget less one and one hop more (R19, R20, R129). -/
def segmentOf (s : State) (i : Fin 64) (sl : Slot) (k : Fin 8) : TxFrame :=
  frameOf (.traffic i k) (headerSent s 1 (s.dt.query s.ol.ownCode sl.dest).1) (trafficBytes {
    origin := sl.id.origin
    cls := BitVec.ofNat 2 sl.cls.num
    serial := sl.id.serial
    dest := sl.dest
    budget := if sl.originated then sl.budget else BitVec.ofNat 4 (min sl.budget.toNat (15 - sl.used.toNat) - 1)
    used := if sl.originated then sl.used else sl.used + 1
    index := BitVec.ofNat 3 k.val
    bodyLength := BitVec.ofNat 10 sl.bodyLength
    countM1 := BitVec.ofNat 3 (sl.count - 1)
    data := s.ms.segment sl k })

/-- The RECEIPT frame of a pool record, with the own distance to the message's origin (R19, R21). -/
def receiptOf (s : State) (r : Receipt) : TxFrame :=
  frameOf (.receipt r.id) (headerSent s 2 (s.dt.query s.ol.ownCode r.id.origin).1)
    (receiptBytes ⟨r.id.origin, BitVec.ofNat 2 r.cls.num, r.id.serial, r.deliverer, r.budget, r.used⟩)

/-- The pool with the record of an identity named for the frame under way (R143). -/
def namedFor (id : Identity) (pool : List Receipt) : List Receipt := pool.map fun x => if x.id = id then { x with named := true } else x

/-- From `s` to `t` the part was keyed with `f` as the first frame: AC is KEYED with no frame sent yet, MP is in KEYUP with both timers and the transmit clock watch running, the receiver is OFF and a frame that was being gathered is given up (R34, R42, R47, R142). -/
structure Keyed (s t : State) (f : TxFrame) : Prop where
  access    : t.ac = { s.ac with access := .keyed, delayEnd := none, drawClass := none, sent := 0, queues := t.ac.queues }
  port      : t.mp = { s.mp with
    key := .keyup, txd := true, frame := some f, assembler := .off, huntBits := 0, huntCount := 0, forming := []
    buffers := t.mp.buffers, keyupEnd := some (s.now + s.ol.settings.keyup)
    limitEnd := some (s.now + s.ol.settings.txlimit * 1000), txWatch := some s.now }
  gathering : ∀ b, s.mp.assembler = .gathering b → t.mp.buffers = place s.mp.buffers b .empty
  waiting   : (∀ b, s.mp.assembler ≠ .gathering b) → t.mp.buffers = s.mp.buffers
  others    : ((((t.withAc s.ac).withMp s.mp).withMs s.ms).withDu s.du).withDt s.dt = s

/-- From `s` to `t` MP reported its clock conditions as `rx` and `tx`, none of which begins: CLOCK-LOSS stays live while one holds, its live flag clears with the last, and its held flag stays; AC evaluates when a condition ended, and stays as it was when none did. What the edge does at the port and to FH's counters is left to the statement (R57, R62, R137). -/
structure LossEnds (s t : State) (rx tx : Bool) : Prop where
  conditions : t.ofm = { s.ofm with
    rxLoss := rx, txLoss := tx, faults := s.ofm.faults.set .clockLoss { s.ofm.faults.clockLoss with live := rx || tx } }
  ended      : s.ofm.rxLoss ≠ rx ∨ s.ofm.txLoss ≠ tx → t.ac = evaluatedAc (t.withAc s.ac)
  unended    : s.ofm.rxLoss = rx → s.ofm.txLoss = tx → t.ac = s.ac
  others     : ((((t.withOfm s.ofm).withMp s.mp).withAc s.ac).withFh s.fh) = s

/-- From `s` to `t` the sync was found: the hunting register holds it, the watch restarts, and buffer 0, else buffer 1, is claimed, else the frame is skipped and OVERRUN counts; nothing else changes (R35, R36, R40, R46). -/
structure SyncTaken (s t : State) : Prop where
  register : t.mp.huntBits = 0x5AC369 ∧ t.mp.huntCount = 24 ∧ t.mp.rxWatch = some s.now
  first    : look s.mp.buffers 0 = .empty →
    t.mp.assembler = .gathering 0 ∧ t.mp.buffers = place s.mp.buffers 0 (.filling []) ∧ t.fh = s.fh
  second   : look s.mp.buffers 0 ≠ .empty → look s.mp.buffers 1 = .empty →
    t.mp.assembler = .gathering 1 ∧ t.mp.buffers = place s.mp.buffers 1 (.filling []) ∧ t.fh = s.fh
  neither  : look s.mp.buffers 0 ≠ .empty → look s.mp.buffers 1 ≠ .empty →
    t.mp.assembler = .skipping 0 ∧ t.mp.buffers = s.mp.buffers ∧ t.fh = { s.fh with overrun := satInc s.fh.overrun }
  rest     : t.mp = { s.mp with
    huntBits := t.mp.huntBits, huntCount := t.mp.huntCount, rxWatch := t.mp.rxWatch
    assembler := t.mp.assembler, buffers := t.mp.buffers }
  others   : (t.withMp s.mp).withFh s.fh = s

/-- FH is idle and the frame it takes next is an accepted TRAFFIC frame, with header `h`, payload fields `tr` and quality sample `q` (R22 to R27). -/
def AcceptsTraffic (s : State) (h : Header) (tr : Traffic) (q : Nibble) : Prop :=
  ∃ b bytes rest, (∀ k x y, look s.mp.buffers k ≠ .inHandling x y) ∧ s.mp.fullOrder = b :: rest
    ∧ look s.mp.buffers b = .full bytes q ∧ frameBytesOk bytes = true ∧ checkOk bytes = true ∧ malformed bytes = false
    ∧ parseHeader bytes = h ∧ h.kind = 1 ∧ s.ol.ownCode ≠ some h.sender ∧ parseTraffic (payload bytes) = tr

/-- FH is idle and the frame it takes next is an accepted RECEIPT frame, with header `h`, payload fields `r` and quality sample `q` (R22 to R28). -/
def AcceptsReceipt (s : State) (h : Header) (r : ReceiptFrame) (q : Nibble) : Prop :=
  ∃ b bytes rest, (∀ k x y, look s.mp.buffers k ≠ .inHandling x y) ∧ s.mp.fullOrder = b :: rest
    ∧ look s.mp.buffers b = .full bytes q ∧ frameBytesOk bytes = true ∧ checkOk bytes = true ∧ malformed bytes = false
    ∧ parseHeader bytes = h ∧ h.kind = 2 ∧ s.ol.ownCode ≠ some h.sender ∧ parseReceipt (payload bytes) = r

/-- Own distance to the origin of a receipt once its sender and its deliverer have been learned (R28, R115). -/
def distanceToOrigin (s : State) (h : Header) (r : ReceiptFrame) (q : Nibble) : Nibble :=
  ((learnFar r.deliverer h r.used (learnSender h q s)).dt.query s.ol.ownCode r.origin).1

/-- The four conditions of R133 on a receipt overheard against a pool record, at an own distance `o` to the origin; the sender is another station's by validation. -/
abbrev OverheardReceipt (h : Header) (r : ReceiptFrame) (rec : Receipt) (o : Nibble) : Prop :=
  h.congested = false ∧ rec.used.toNat ≤ r.used.toNat ∧ (h.dist.toNat ≤ o.toNat ∨ h.dist = 15 ∨ o = 15)

/-- The five conditions of Table 8-7, with the entry as found at lookup and an own distance `o` to the origin (R130). -/
abbrev ReceiptCandidate (s : State) (h : Header) (r : ReceiptFrame) (o : Nibble) : Prop :=
  (∃ e, s.idt.entry r.id = some e ∧ (e.disposition = .relayed ∨ e.disposition = .stored) ∧ e.receiptRelayed = false)
    ∧ 2 ≤ min r.budget.toNat (15 - r.used.toNat) ∧ s.ol.ownCode ≠ some r.origin ∧ (h.dist = 15 ∨ o = 15 ∨ o.toNat ≤ h.dist.toNat)

/-- The Outcome List with one record more, the oldest gone when it was full (R165). -/
def outcomesWith (s : State) (x : OutcomeRecord) : List OutcomeRecord :=
  (if s.du.outcomes.length < 16 then s.du.outcomes else s.du.outcomes.drop 1) ++ [x]

/-- Own distance to `x` once the frame's sender and origin have been learned (R27, R115). -/
def distanceAfter (s : State) (h : Header) (tr : Traffic) (q : Nibble) (x : Code) : Nibble :=
  ((learnFar tr.origin h tr.used (learnSender h q s)).dt.query s.ol.ownCode x).1

/-- A message for this station: its code, or ANY-CENTRE at a centre (R3). -/
abbrev AddressedHere (s : State) (dest : Code) : Prop := s.ol.ownCode = some dest ∨ (dest = 4094 ∧ s.ol.centre = true)

/-- A message to be delivered here: one for this station, or for all (R72). -/
abbrev DeliversHere (s : State) (dest : Code) : Prop := AddressedHere s dest ∨ dest = 4095

/-- The five conditions of Table 8-1, for a message of class `cls` with effective budget `eff` and heard-from set `heard`, at a store whose CONGESTED is `congested` and an own distance `o` (R119, R120). -/
abbrev RelayCandidate (s : State) (h : Header) (cls : MsgClass) (dest : Code) (eff : Nat) (heard : List Code) (congested : Bool)
    (o : Nibble) : Prop :=
  2 ≤ eff ∧ ¬AddressedHere s dest ∧ heard.length < (s.ol.classes.get cls).redundancy
    ∧ (congested = false ∨ cls = .life ∨ cls = .urgent) ∧ (h.dist = 15 ∨ o = 15 ∨ o.toNat ≤ h.dist.toNat)

/-- The conditions of Table 8-4 on a copy that carries `atLeast` hops used or more, at an own distance `d` (R125, R156). -/
abbrev OverheardRelay (h : Header) (tr : Traffic) (atLeast : Nat) (d : Nibble) : Prop :=
  h.congested = false ∧ atLeast ≤ tr.used.toNat ∧ (h.dist.toNat ≤ d.toNat ∨ h.dist = 15 ∨ d = 15)

/-- A segment agrees with the slot of its message in the fields that R80 compares. -/
abbrev SameMessage (sl : Slot) (tr : Traffic) : Prop :=
  sl.cls = .ofBits tr.cls ∧ sl.dest = tr.dest ∧ sl.bodyLength = tr.bodyLength.toNat ∧ sl.count = tr.count

/-- A copy that would have made its slot stand down comes together with the slot's eviction by a POST, at the same millisecond, the eviction taken first (R125 to R128, Table 8-6; n31). -/
def StandDownTooLate (s : State) (h : Header) (tr : Traffic) (q : Nibble) : Prop :=
  s.ms.evictedAt = s.now ∧ ∃ sl ∈ s.ms.evicted, sl.id = tr.id
    ∧ (sl.state = .held ∨ (sl.state = .queued ∧ sl.resumeAt = 0 ∧ sl.originated = false ∧ sl.deliverHere = false))
    ∧ OverheardRelay h tr (sl.used.toNat + 1) (distanceAfter s h tr q sl.dest)
    ∧ (s.ol.classes.get sl.cls).redundancy ≤ (addHeard sl.heard h.sender).length

/-- A TRAFFIC segment meets no entry, and its insert does not fail, or a DROPPED entry without a slot, and is no stand-down that comes with the slot's eviction; `base` is the entry it is then entered with, but for disposition and link (R27, R74, R78, R97; n31). -/
def MeetsAsNew (s : State) (h : Header) (tr : Traffic) (q : Nibble) (base : Entry) : Prop :=
  (s.idt.find tr.id = none ∧ s.idt.insert tr.id .dropped false ≠ .failed
      ∧ base = ⟨tr.id, .dropped, none, 0, s.idt.sweep.isSome, false, none, false⟩)
    ∨ ∃ e, s.idt.entry tr.id = some e ∧ e.link = none ∧ e.disposition = .dropped ∧ base = { e with age := 0 }
        ∧ ¬StandDownTooLate s h tr q

/-- The record of a slot that a segment opens, ASSEMBLING, with its first block `blk` (R72, R75). -/
def openedSlot (s : State) (tr : Traffic) (q : Nibble) (blk : Fin 384) : Slot where
  state := .assembling
  id := ⟨tr.origin, tr.serial⟩
  dest := tr.dest
  cls := .ofBits tr.cls
  budget := tr.budget
  used := tr.used
  bodyLength := tr.bodyLength.toNat
  count := tr.count
  blocks := place (Vector.replicate 8 none) (Fin.ofNat 8 tr.index.toNat) (some blk)
  originated := false
  relay := false
  deliverHere := decide (DeliversHere s tr.dest)
  unread := false
  answered := false
  heard := []
  retries := 1
  resumeAt := 0
  deadline := some (s.now + s.ol.settings.assembly * 1000)
  sentDist := none
  q := q
  completion := s.now

/-- The record of a single-segment message that is a relay candidate: HELD with its relay deadline, unread if it is to be delivered here (R73, R121, R122, R159). -/
def heldSlot (s : State) (h : Header) (tr : Traffic) (q : Nibble) (own : Code) (blk : Fin 384) : Slot :=
  { openedSlot s tr q blk with
    state := .held
    relay := true
    unread := (openedSlot s tr q blk).deliverHere
    deadline := some (s.now + contentionCount (.ofBits tr.cls) q (progress h.dist (distanceAfter s h tr q tr.dest)) s.ofm.u own
      tr.serial * s.ol.settings.slot) }

/-- A new message for which a slot is taken: worth keeping, and either of several segments or, single, a relay candidate or to be delivered here (R72 to R74). -/
abbrev NeedsSlot (s : State) (h : Header) (tr : Traffic) (q : Nibble) : Prop :=
  (DeliversHere s tr.dest ∨ 2 ≤ min tr.budget.toNat (15 - tr.used.toNat))
    ∧ (2 ≤ tr.count ∨ DeliversHere s tr.dest
      ∨ RelayCandidate s h (.ofBits tr.cls) tr.dest (min tr.budget.toNat (15 - tr.used.toNat)) [] s.ms.congested
          (distanceAfter s h tr q tr.dest))

/-- From `s` to `t` an accepted segment was stored as the first of slot `i`, whose record is then `sl`; `free` is left of the free list, and no queue changes (R74, R75). -/
structure Stored (s t : State) (tr : Traffic) (i : Fin 64) (sl : Slot) (free : List (Fin 384)) : Prop where
  counted : t.fh = { s.fh with accepted := satInc s.fh.accepted }
  record  : look t.ms.slots i = some sl
  others  : ∀ j, j ≠ i → look t.ms.slots j = look s.ms.slots j
  free    : t.ms.free = free
  data    : t.ms.segment sl (Fin.ofNat 8 tr.index.toNat) = tr.data
  queues  : t.ac.queues = s.ac.queues

/-- The operator line with the notice of a message that has come for delivery, by its class (R159). -/
def inboxNoticed (cls : MsgClass) (o : OperatorLine) : OperatorLine :=
  { o with notices := o.notices.put (if cls = .life then .inboxLife else .inbox) true }

/-- The Receipt Pool has room and no record of an identity (R164). -/
def PoolOpen (s : State) (id : Identity) : Prop := s.du.pool.length < 16 ∧ ∀ r ∈ s.du.pool, r.id ≠ id

/-- The Delivery Unit with a READY receipt issued here, deliverer `own`, at the end of the pool (R159, R164). -/
def receiptJoined (s : State) (id : Identity) (cls : MsgClass) (own : Code) : DeliveryUnit :=
  { s.du with
    pool := s.du.pool ++ [⟨id, cls, own, BitVec.ofNat 4 s.ol.settings.hops, 0, .ready s.now, [], false⟩] }

/-- From `s` to `t` an accepted frame has a receipt issued here, deliverer `own`, and the operator line is `ol` but for what the pool adds. A pool that holds a record of the identity stays; one with room takes the record; a full one counts DROPPED with its notice, and the record takes the place of a displaced one, if there is one (R159, R164). -/
structure ReceiptAsked (s t : State) (id : Identity) (cls : MsgClass) (own : Code) (ol : OperatorLine) : Prop where
  held  : (∃ r ∈ s.du.pool, r.id = id) →
    t.du = s.du ∧ t.fh = { s.fh with accepted := satInc s.fh.accepted } ∧ t.ol = ol
  room  : PoolOpen s id →
    t.du = receiptJoined s id cls own ∧ t.fh = { s.fh with accepted := satInc s.fh.accepted } ∧ t.ol = ol
  full  : 16 ≤ s.du.pool.length → (∀ r ∈ s.du.pool, r.id ≠ id) →
    t.fh = { s.fh with accepted := satInc s.fh.accepted, dropped := satInc s.fh.dropped }
      ∧ t.ol = { ol with notices := ol.notices.put .dropped true }
      ∧ (displaced cls s.du.pool = none → t.du = s.du)
      ∧ ∀ d, displaced cls s.du.pool = some d →
          t.du = { receiptJoined s id cls own with
            pool := (receiptJoined s id cls own).pool.filter fun r => r.id != d.id }

/-- An entry after a visit of the sweep, or none when it is removed: a fresh one is passed over, another is aged, and removed when it is unlinked and has reached IDLIFE (R100, R101). -/
def Entry.swept (life : Nat) (e : Entry) : Option Entry :=
  if e.fresh then some e
  else if life ≤ min 255 (e.age + 1) ∧ e.link = none then none
  else some { e with age := min 255 (e.age + 1) }

/-! ## Invariants -/

/-- The Operator Line's buffers hold what they can hold, the line being typed has no carriage return yet (11.1), and the closing line of a block under way is the last answer line waiting (R177). -/
def OperatorLine.Fits (o : OperatorLine) : Prop :=
  o.output.length ≤ Config.outputCapacity ∧ o.inputCount ≤ Config.inputCapacity ∧ o.typing.crStored = false
    ∧ (∀ c, o.post = some c → c.body.length ≤ Config.bodyCapacity)
    ∧ (o.blockOpen = true → (answering o.waiting).getLast?.map OutLine.text = some [0x2E])

/-- Every setting lies in its range and on its step; BEACON may be 0 (Table 11-3). -/
def Settings.Legal (v : Settings) : Prop :=
  ∀ n : SettingName, (n = .beacon ∧ v.get n = 0)
    ∨ (n.range.1 ≤ v.get n ∧ v.get n ≤ n.range.2.1 ∧ v.get n % n.range.2.2 = 0)

/-- The settings, the class settings, the code and the callsign are legal, and a part in LIVE has both (R1, R2, R7, R171, R174). -/
def OperatorLine.Legal (o : OperatorLine) : Prop :=
  o.settings.Legal
    ∧ (∀ c : MsgClass, 1 ≤ (o.classes.get c).redundancy ∧ (o.classes.get c).redundancy ≤ 3) ∧ o.classes.life.preempt = true
    ∧ (∀ c, o.ownCode = some c → 1 ≤ c.toNat ∧ c.toNat ≤ 4093)
    ∧ (∀ t, o.callsign = some t → 3 ≤ t.length ∧ t.length ≤ 10 ∧ t.all callByte = true)
    ∧ (o.phase = .live → o.ownCode.isSome = true ∧ o.callsign.isSome = true)

/-- PTT, receiver and access state agree: PTT only in LIVE (R42), the assembler OFF exactly when the receiver is disabled (R34), TXD at 1 while PTT is deasserted (R32), the time limit running exactly while PTT is asserted (R42, R45), AC KEYED exactly then (9.2); a completed frame holds as many bytes as its length field says, and a frame being gathered holds fewer, from byte 4 on (R37, R38). -/
def State.PortAgrees (s : State) : Prop :=
  (s.ptt = true → s.ol.phase = .live)
    ∧ (s.mp.assembler = .off ↔ ¬(s.ol.phase = .live ∧ s.ptt = false))
    ∧ (s.ptt = false → s.mp.txd = true)
    ∧ s.mp.limitEnd.isSome = s.ptt
    ∧ (s.ac.access = .keyed ↔ s.ptt = true)
    ∧ (∀ b bytes q, look s.mp.buffers b = .full bytes q ∨ look s.mp.buffers b = .inHandling bytes q → frameBytesOk bytes = true)
    ∧ (∀ b bytes, look s.mp.buffers b = .filling bytes → 5 ≤ bytes.length →
        payloadLength bytes ≤ Config.maxPayload ∧ bytes.length < 7 + payloadLength bytes)

/-- An access delay runs exactly in COUNTING (9.2), and a generator that is seeded is never 0 (R141). -/
def AccessController.Sound (a : AccessController) : Prop :=
  (a.delayEnd.isSome = true ↔ a.access = .counting) ∧ (a.drawClass.isSome = true ↔ a.access = .counting)
    ∧ a.generator ≠ some 0

/-- The generator is seeded exactly in LIVE (R141). -/
def State.SeededInLive (s : State) : Prop := s.ac.generator.isSome = true ↔ s.ol.phase = .live

/-- The Monitor's figures lie in their ranges, a live fault is held, CLOCK-LOSS is live exactly while a clock condition holds, each clock condition holds only while its clock is watched, the clock has not passed the end of the window under way, and in SETUP no window runs (R46, R47, R51 to R57, R60, R62). -/
def State.MonitorSound (s : State) : Prop :=
  s.ofm.history.length = Config.windows
    ∧ (∀ r ∈ s.ofm.history, r.carrierMs ≤ s.ol.settings.window)
    ∧ (∀ w, s.ofm.window = some w → w.carrierMs ≤ s.ol.settings.window ∧ w.frames ≤ 255 ∧ w.failed ≤ 255
        ∧ s.now ≤ w.endsAt)
    ∧ s.ofm.u ≤ 100 ∧ s.ofm.stuckRun ≤ 8
    ∧ (∀ f : ChannelFault, (s.ofm.faults.get f).live = true → (s.ofm.faults.get f).held = true)
    ∧ s.ofm.faults.clockLoss.live = (s.ofm.rxLoss || s.ofm.txLoss)
    ∧ (s.ofm.rxLoss = true → s.ol.phase = .live ∧ s.pins.dcd = true) ∧ (s.ofm.txLoss = true → s.ptt = true)
    ∧ (s.ol.phase = .setup → s.ofm.window = none ∧ ∀ r ∈ s.ofm.history, r.carrierMs = 0)

/-- At most 48 single entries, of distinct codes, at most 8 of them pinned (R105, R112). -/
def DistTable.Fits (t : DistTable) : Prop :=
  t.singles.length ≤ Config.singles ∧ (t.singles.map Single.code).Nodup ∧ t.pinnedCount ≤ Config.pins

/-- At most 16 receipt records, no two of one identity; at most 16 outcomes; the serial counter is never 0 (R5, R164, R165). -/
def DeliveryUnit.Fits (d : DeliveryUnit) : Prop :=
  d.pool.length ≤ Config.poolSize ∧ (d.pool.map Receipt.id).Nodup ∧ d.outcomes.length ≤ Config.poolSize ∧ d.serial ≠ 0

/-- Every entry stands in the bucket of its identity, and no identity stands twice (R92, R95, R97); each overflow entry is on one chain once and filled, or on the free list once and empty; a chain ends where its last link is absent (R90, R95, R101). -/
structure IdTable.Sound (t : IdTable) : Prop where
  placed   : ∀ b, ∀ p ∈ t.spots b, ∀ e, t.at p = some e → bucketOf e.id = b
  distinct : ∀ b, (((t.spots b).filterMap t.at).map Entry.id).Nodup
  chained  : ((List.finRange 512).flatMap t.chain ++ t.free).Perm (List.finRange 256)
  filled   : ∀ b, ∀ x ∈ t.chain b, (look t.overflow x).entry ≠ none
  empty    : ∀ x ∈ t.free, (look t.overflow x).entry = none
  ended    : ∀ b x, (t.chain b).getLast? = some x → (look t.overflow x).next = none

/-- A slot's record: a deadline in ASSEMBLING, HELD and AWAIT alone and a sent distance in AWAIT alone (R68); every segment present exactly outside ASSEMBLING (R80, R81); at most 3 heard-from codes, none twice (R126). -/
abbrev Slot.Sound (sl : Slot) : Prop :=
  (sl.deadline.isSome = true ↔ sl.state = .assembling ∨ sl.state = .held ∨ sl.state = .await)
    ∧ (sl.sentDist.isSome = true ↔ sl.state = .await)
    ∧ (sl.complete = true ↔ sl.state ≠ .assembling)
    ∧ sl.heard.Nodup ∧ sl.heard.length ≤ 3

/-- Slots and entries name each other (R76, R98), and a class queue holds the QUEUED slots of its class, each once (R136). A slot is held, and a frame is in a buffer or received, in LIVE alone (R34, R89, R174), and a self-test runs in SETUP alone (R173). Each slot's record is sound, and at most one slot is ON-AIR, while AC is KEYED and MP has a frame of the train to send (R142, R143). -/
structure State.Linked (s : State) : Prop where
  table : s.idt.Sound
  slots : ∀ i sl, look s.ms.slots i = some sl → ∃ e, s.idt.entry sl.id = some e ∧ e.link = some i
  links : ∀ id e i, s.idt.entry id = some e → e.link = some i → ∃ sl, look s.ms.slots i = some sl ∧ sl.id = id
  queue : ∀ c i, i ∈ s.ac.queues.get c ↔ ∃ sl, look s.ms.slots i = some sl ∧ sl.state = .queued ∧ sl.cls = c
  once  : ∀ c, (s.ac.queues.get c).Nodup
  setup : s.ol.phase = .setup →
    (∀ i, look s.ms.slots i = none) ∧ (∀ b, look s.mp.buffers b = .empty) ∧ s.mp.assembler = .off
  tests : s.ol.phase = .live → s.ol.selfTest = none
  sound : ∀ i sl, look s.ms.slots i = some sl → sl.Sound
  train : ∀ i sl, look s.ms.slots i = some sl → sl.state = .onAir →
    s.ac.access = .keyed ∧ (s.mp.key = .keyup ∨ s.mp.key = .sending) ∧ s.mp.frame.isSome = true
  onAir : ∀ i j si sj, look s.ms.slots i = some si → look s.ms.slots j = some sj → si.state = .onAir → sj.state = .onAir → i = j

/-- The blocks attached to the slots, then the free ones. -/
def Store.allBlocks (m : Store) : List (Fin 384) :=
  m.slots.toList.flatMap (fun o => match o with
    | some sl => sl.attached
    | none => []) ++ m.free

/-- Every block is attached once or free once, never both (R70). -/
def Store.Conserved (m : Store) : Prop := m.allBlocks.Perm (List.finRange 384)

end Sys2Proof.Machine
end

