-- ==== Sys2Proof/Certificates/Slice0/Obligations.lean ====
section
/-! DEFINITION. Statements for the provers. `Answered c ls r s` says that command `c`, run at `s`, answers a next state, with the lines `ls` placed on the operator line and, but for that line's traffic, the state `r` (Safety.lean). -/

open Sys2Proof Sys2Proof.Machine

/-! ## Steps -/

/-- The command at the front of the queue is run on the queue's rest. -/
def Obligations.StepRunsFrontCommand : Prop :=
  ∀ (c : Instr) (rest : List Instr) (s : State), step (s.withPending (c :: rest)) = exec c (s.withPending rest)

/-- On an empty queue the event that is due happens, or a millisecond passes (n1: the model's choice). -/
def Obligations.EmptyQueueRunsDueEventOrOneMillisecond : Prop :=
  ∀ s : State, s.pending = [] →
    (∀ c, nextEvent s = some c → step s = exec c s) ∧ (nextEvent s = none → step s = .next (advance (s.now + 1) s))

/-- Every command completes in every state, and none touches the queue. That a row whose event cannot happen answers the state as it is, and that the meanings go on in states no run reaches, is the model's choice (n3, n27). -/
def Obligations.EveryCommandCompletesAndKeepsQueue : Prop :=
  ∀ (c : Instr) (s : State), ∃ t, exec c s = .next t ∧ t.pending = s.pending

/-- Time that passes within a window counts as carrier time, once, while DCD or PTT is asserted, never more than WINDOW. A window end that lies on the way happens at its moment, as WINDOW_END does, so that an interval across it is divided there. Nothing changes but the clock, the Monitor, the pending notices and AC's evaluation (R51, R52, R54). That the clock is moved on by what is run, an expiry or a millisecond, is the model's (n1, n2, n21). -/
def Obligations.TimePassingCountsCarrierTime : Prop :=
  ∀ (s : State) (t : Nat), s.now < t →
    (advance t s).now = t
      ∧ (s.ofm.window = none → advance t s = s.withNow t)
      ∧ (∀ w, s.ofm.window = some w → 0 < s.ol.settings.window →
          (t ≤ w.endsAt → advance t s = (s.withOfm { s.ofm with window := some { w with
              carrierMs := if s.pins.dcd = true ∨ s.ptt = true then min s.ol.settings.window (w.carrierMs + (t - s.now))
                else w.carrierMs } }).withNow t)
            ∧ (s.now ≤ w.endsAt → w.endsAt < t → ∃ u, exec .windowEnd s = .next u ∧ advance t s = advance t u))
      ∧ ((((advance t s).withNow s.now).withOfm s.ofm).withAc s.ac).withOl { (advance t s).ol with notices := s.ol.notices } = s
      ∧ (advance t s).ac.queues = s.ac.queues

/-! ## Reset -/

/-- RESET leaves every block in its reset state; ORATE is sampled; what the spec keeps, or leaves to the outside, stays. The values of the hunting register, the byte being formed and the length register are the model's choice (n5). -/
def Obligations.ResetReturnsEveryBlock : Prop :=
  ∀ (rate : BitVec 2) (s : State), ∃ t, exec (.reset rate) s = .next t
    ∧ t = { State.reset with
        now := s.now
        pins := s.pins
        pending := s.pending
        ms := { Store.reset with blocks := s.ms.blocks }
        ol := { OperatorLine.reset with rate := rate, sending := !s.pins.ohold } }
    ∧ t.ol.phase = .setup ∧ t.ol.ownCode = none ∧ t.ol.callsign = none ∧ t.ol.centre = false ∧ t.ol.rate = rate
    ∧ t.ol.output = txt "+READY" ++ [0x0D, 0x0A] ∧ t.ol.lines = [] ∧ t.ol.ordy = true ∧ t.ol.post = none ∧ t.ol.selfTest = none
    ∧ t.ol.settings = ⟨40, 150, 10, 20, 500, 20, 3, 10, 15, 60, 60, 20, 6⟩
    ∧ (∀ k, t.ol.notices.has k = false ∧ t.ol.masked.has k = false)
    ∧ t.fh = ⟨0, 0, 0, 0, 0, 0⟩ ∧ t.mp.key = .unkeyed ∧ t.mp.txd = true ∧ t.mp.assembler = .off
    ∧ (∀ b, look t.mp.buffers b = .empty) ∧ t.mp.fullOrder = []
    ∧ t.ofm.u = 0 ∧ t.ofm.window = none ∧ t.ofm.stuckRun = 0 ∧ t.ofm.history = List.replicate 16 ⟨0, 0, 0⟩
    ∧ (∀ f, (t.ofm.faults.get f).live = false ∧ (t.ofm.faults.get f).held = false)
    ∧ (∀ i, look t.ms.slots i = none) ∧ t.ms.free = List.finRange 384
    ∧ (∀ i, t.idt.entry i = none) ∧ t.idt.free = List.finRange 256 ∧ t.idt.sweep = none
    ∧ t.dt.singles = [] ∧ (∀ i, look t.dt.spans i = none) ∧ t.dt.ownTier = 15
    ∧ (∀ c, t.ac.queues.get c = []) ∧ t.ac.access = .idle ∧ t.ac.generator = none ∧ t.ac.identDue = true ∧ t.ac.beaconDue = false
    ∧ t.du.serial = 1 ∧ t.du.pool = [] ∧ t.du.outcomes = [] ∧ t.du.fetchRef = none

/-! ## Characters, output, notices -/

/-- CHARACTER_RECEIVED changes the input buffer and ORDY alone: a framing error and a line feed are discarded, a carriage return ends the line, another character is stored, or dropped with its mark (R167, R168). That a character dropped for want of room still counts toward the 160, so that a line can carry both marks, is the model's reading (n10). -/
def Obligations.CharactersReceivedAreStoredOrMarked : Prop :=
  ∀ (ch : Byte) (framingError : Bool) (s : State), ∃ t, exec (.characterReceived ch framingError) s = .next t
    ∧ t.withOl { t.ol with lines := s.ol.lines, typing := s.ol.typing, ordy := s.ol.ordy } = s
    ∧ (framingError = true ∨ ch = 0x0A → t = s)
    ∧ (framingError = false → ch = 0x0D → t.ol.typing = InLine.empty
        ∧ t.ol.lines = s.ol.lines ++ [{ s.ol.typing with
            crStored := decide (s.ol.inputCount < 256), overrun := s.ol.typing.overrun || decide (256 ≤ s.ol.inputCount) }])
    ∧ (framingError = false → ch ≠ 0x0A → ch ≠ 0x0D → t.ol.lines = s.ol.lines
        ∧ t.ol.typing = { s.ol.typing with
            received := s.ol.typing.received + 1
            overrun := s.ol.typing.overrun || decide (256 ≤ s.ol.inputCount)
            tooLong := s.ol.typing.tooLong || decide (160 < s.ol.typing.received + 1)
            text := if s.ol.inputCount < 256 ∧ s.ol.typing.received + 1 ≤ 160 then s.ol.typing.text ++ [ch] else s.ol.typing.text })
    ∧ (s.ol.Fits → t.ol.inputCount ≠ s.ol.inputCount → t.ol.ordy = (s.ol.ordy && decide (t.ol.inputCount < 192)))
    ∧ (s.ol.Fits → t.ol.inputCount = s.ol.inputCount → t.ol.ordy = s.ol.ordy)

/-- OHOLD holds the next character back and its release lets sending resume; CHARACTER_SENT frees the character's place and begins the next unless OHOLD is asserted; nothing ends that was not begun. The last character of a FETCH block's closing line completes the FETCH: the reference becomes absent, an INBOX slot goes FREE with DELIVERED, another is read and stays (R162, R169). -/
def Obligations.OutputIsSentUnlessHeld : Prop :=
  (∀ s : State,
      exec .oholdAsserted s = .next (s.withPins { s.pins with ohold := true })
        ∧ exec .oholdDeasserted s = .next
            ((s.withPins { s.pins with ohold := false }).withOl { s.ol with sending := s.ol.sending || !s.ol.output.isEmpty }))
    ∧ (∀ (s : State) (c : Byte) (rest : Text), s.ol.sending = true → s.ol.output = c :: rest → s.ol.fetchLeft = none →
        exec .characterSent s = .next (s.withOl { s.ol with output := rest, sending := !rest.isEmpty && !s.pins.ohold }))
    ∧ (∀ (s : State) (c : Byte) (rest : Text) (n : Nat), s.ol.sending = true → s.ol.output = c :: rest →
        s.ol.fetchLeft = some (n + 2) →
        exec .characterSent s = .next (s.withOl { s.ol with
          output := rest, sending := !rest.isEmpty && !s.pins.ohold, fetchLeft := some (n + 1) }))
    ∧ (∀ (s : State) (c : Byte) (rest : Text) (i : Fin 64) (sl : Slot), s.ol.sending = true → s.ol.output = c :: rest →
        s.ol.fetchLeft = some 1 → s.du.fetchRef = some i → look s.ms.slots i = some sl →
        ∃ t, exec .characterSent s = .next t ∧ exec .fetchComplete s = .next t ∧ t.du = { s.du with fetchRef := none }
          ∧ t.ol = { s.ol with output := rest, sending := !rest.isEmpty && !s.pins.ohold, fetchLeft := none }
          ∧ (sl.state = .inbox → t.ms = s.ms.release i ∧ t.idt = s.idt.unlink sl.id .delivered)
          ∧ (sl.state ≠ .inbox → t.ms = s.ms.modSlot i (fun x => { x with unread := false }) ∧ t.idt = s.idt)
          ∧ ((((t.withOl s.ol).withDu s.du).withMs s.ms).withIdt s.idt) = s)
    ∧ ∀ s : State, s.ol.sending = false → exec .characterSent s = .next s

/-- OUTPUT_PLACED places the waiting lines in order while they fit; NOTICE_EMITTED emits, of the kinds that are pending, not masked and not waiting for their own UNMASK response, the first whose own line fits, when no block is under way and no waiting line fits; otherwise, with no such kind whose line fits included, nothing is emitted (R169, R177; n9). -/
def Obligations.WaitingLinesThenNoticesArePlaced : Prop :=
  (∀ s : State, ∃ t, exec .outputPlaced s = .next t ∧ Placed [] s t ∧ t.calm s = s)
    ∧ (∀ (s : State) (k : Notice) (before rest : List Notice),
        noticeKinds.filter (fun k => s.ol.notices.has k && !s.ol.masked.has k && s.ol.unmasking != some k) = before ++ k :: rest →
        (∀ x ∈ before, 1024 < s.ol.output.length + x.word.length + 3) →
        s.ol.blockOpen = false →
        (∀ l ls, s.ol.waiting = l :: ls → 1024 < s.ol.output.length + l.text.length + 2) →
        s.ol.output.length + k.word.length + 3 ≤ 1024 →
        exec .noticeEmitted s = .next (s.withOl { s.ol with
          notices := s.ol.notices.put k false
          output := s.ol.output ++ (0x2A :: k.word) ++ [0x0D, 0x0A]
          sending := s.ol.sending || !s.pins.ohold }))
    ∧ noticeKinds = [.inboxLife, .inbox, .delivered, .failed, .fault, .dropped, .clash]
    ∧ ∀ s : State, s.ol.blockOpen = true ∨ (∃ l ls, s.ol.waiting = l :: ls ∧ s.ol.output.length + l.text.length + 2 ≤ 1024)
        ∨ (∀ k, s.ol.notices.has k = true →
            s.ol.masked.has k = true ∨ s.ol.unmasking = some k ∨ 1024 < s.ol.output.length + k.word.length + 3) →
        exec .noticeEmitted s = .next s

/-- A line that starts no command is answered by the first test of R170 that applies; a blank line is not answered. -/
def Obligations.UnknownLinesAreRefusedInOrder : Prop :=
  ∀ (l : OpLine) (s : State), s.ol.answered = true → s.ol.post = none → commandLine l = .unknownCommand l →
    (words l.text = [] → exec (.unknownCommand l) s = .next (s.withOl (s.ol.takeLine (.unknownCommand l))))
      ∧ ∀ w rest, words l.text = w :: rest →
          Answered (.unknownCommand l)
            [if l.overrun then txt "-OVERRUN" else if l.tooLong then txt "-LENGTH"
              else if s.ol.selfTest.isSome then txt "-BUSY"
              else if upperText w ∈ setupNames ∧ s.ol.phase = .live then txt "-STATE" else txt "-SYNTAX"] s s

/-- A command line is read back from its words: for every command name of Table 11-1, TEST with each of its four numbers among them, and words that hold no space, the line of the name and the words is that command with those words. -/
def Obligations.CommandLineReadsBack : Prop :=
  (∀ (name : Text) (row : List Text → Instr) (args : List Text), (name, row) ∈ commandRows → (∀ w ∈ args, wordOk w = true) →
    commandLine ⟨unwords (name :: args), false, false⟩ = row args)
    ∧ (∀ (n : Text) (args : List Text), wordOk n = true → (∀ w ∈ args, wordOk w = true) →
        (parseNumber n = some 1 → commandLine ⟨unwords (txt "TEST" :: n :: args), false, false⟩ = .test1 args)
          ∧ (parseNumber n = some 2 → commandLine ⟨unwords (txt "TEST" :: n :: args), false, false⟩ = .test2 args)
          ∧ (parseNumber n = some 3 → commandLine ⟨unwords (txt "TEST" :: n :: args), false, false⟩ = .test3 args)
          ∧ (parseNumber n = some 4 → commandLine ⟨unwords (txt "TEST" :: n :: args), false, false⟩ = .test4 args))
    ∧ commandRows.map Prod.fst ++ [txt "TEST"] = [txt "CODE", txt "CALL", txt "CENTRE", txt "HOPS", txt "TIMING", txt "CLASS",
        txt "SPAN", txt "FAULTSEL", txt "ONAIR", txt "STATUS", txt "POST", txt "FETCH", txt "CANCEL", txt "LIST", txt "ROUTES",
        txt "OUTCOMES", txt "PIN", txt "UNPIN", txt "PURGE", txt "MASK", txt "UNMASK", txt "FAULTCLR", txt "QUIET", txt "RESUME",
        txt "RESTART", txt "TEST"]

/-- A command line is refused, and changes nothing else, by the first test that applies: BUSY while a self-test runs, STATE in the other phase, SYNTAX for arguments it does not allow (R170, R173, Table 11-2). No line is taken before the last taken command's answer is placed, or as a command while a body is collected; the report of a self-test is no such answer. That a FETCH whose argument is malformed is refused with SYNTAX also while the fetch reference names a slot (n18), and that a command given while no line is taken has no effect (n3), is the model's reading. -/
def Obligations.CommandsAreRefusedByTheFirstTest : Prop :=
  (∀ (c : Instr) (p : Option Phase) (s : State), commandPhase c = some p → s.ol.answered = true → s.ol.post = none →
      s.ol.selfTest.isSome = true → Answered c [txt "-BUSY"] s s)
    ∧ (∀ (c : Instr) (p : Phase) (s : State), commandPhase c = some (some p) → s.ol.phase ≠ p → s.ol.answered = true →
        s.ol.post = none → s.ol.selfTest = none → Answered c [txt "-STATE"] s s)
    ∧ (∀ (c : Instr) (need : Option Phase) (p : Phase) (s : State), commandPhase c = some need → (need = none ∨ need = some p) →
        CanTake p s → badArgs c = true → Answered c [txt "-SYNTAX"] s s)
    ∧ (∀ (c : Instr) (p : Option Phase) (s : State), commandPhase c = some p → s.ol.answered = false ∨ s.ol.post ≠ none →
        exec c s = .next s)
    ∧ ∀ o : OperatorLine, o.answered = true ↔ ∀ l ∈ o.waiting, l.ofTest = true

/-! ## SETUP commands -/

/-- CODE and CALL set the own code and the callsign; CENTRE sets the switch, and own tier is recomputed (R2, R3, R116). -/
def Obligations.CodeCallAndCentreAreSet : Prop :=
  ∀ s : State, CanTake .setup s →
    (∀ args n, codeArg args = some n →
        Answered (.code args) [txt "+CODE " ++ decimal n.toNat] (s.withOl { s.ol with ownCode := some n }) s)
      ∧ (∀ args t, callArg args = some t →
          Answered (.call args) [txt "+CALL " ++ t] (s.withOl { s.ol with callsign := some t }) s)
      ∧ ∀ args b, switchArg args = some b →
          Answered (.centre args) [txt "+CENTRE " ++ onOff b]
            ((s.withOl { s.ol with centre := b }).withDt
              { s.dt with ownTier := if b then 0 else computeTier false s.dt.singles }) s

/-- HOPS and TIMING take a value clamped to its range and rounded down to its step, marked CLAMPED when it changed; BEACON takes 0 as 0 (R171). -/
def Obligations.NumericSettingsAreClamped : Prop :=
  (∀ (s : State) (args : List Text) (n : SettingName) (v : Nat), CanTake .setup s → timingArgs args = some (n, v) →
      Answered (.timing args)
        [unwords ([txt "+TIMING", n.word, decimal (n.take v)] ++ (if n.take v = v then [] else [txt "CLAMPED"]))]
        (s.withOl { s.ol with settings := s.ol.settings.set n (n.take v) }) s)
    ∧ (∀ (s : State) (args : List Text) (v : Nat), CanTake .setup s → oneNumber args = some v →
        Answered (.hops args)
          [unwords ([txt "+HOPS", decimal (clamp 1 15 v)] ++ (if clamp 1 15 v = v then [] else [txt "CLAMPED"]))]
          (s.withOl { s.ol with settings := s.ol.settings.set .hops (clamp 1 15 v) }) s)
    ∧ (∀ (n : SettingName) (v : Nat), ¬(n = .beacon ∧ v = 0) →
        n.range.1 ≤ n.take v ∧ n.take v ≤ n.range.2.1 ∧ n.take v % n.range.2.2 = 0
          ∧ (v < n.range.1 → n.take v = n.range.1) ∧ (n.range.2.1 < v → n.take v = n.range.2.1)
          ∧ (n.range.1 ≤ v → v ≤ n.range.2.1 → n.take v ≤ v ∧ v < n.take v + n.range.2.2))
    ∧ SettingName.beacon.take 0 = 0 ∧ SettingName.beacon.range = (1, 60, 1)
    ∧ ∀ (st : Settings) (n m : SettingName) (v : Nat), (st.set n v).get m = if m = n then v else st.get m

/-- CLASS sets PREEMPT and REDUNDANCY of one class; PREEMPT of LIFE stays ON, REDUNDANCY is clamped to 1-3 (R7). -/
def Obligations.ClassSettingsAreTaken : Prop :=
  ∀ (s : State) (args : List Text) (c : MsgClass) (p : Option Bool) (r : Option Nat), CanTake .setup s →
    classArgs args = some (c, p, r) →
    ∃ new : ClassSetting, new.preempt = (if c = .life then true else p.getD (s.ol.classes.get c).preempt)
      ∧ new.redundancy = (match r with
          | some n => min 3 (max 1 n)
          | none => (s.ol.classes.get c).redundancy)
      ∧ Answered (.classCmd args)
          [unwords ([txt "+CLASS", c.word, txt "PREEMPT", onOff new.preempt, txt "REDUNDANCY", decimal new.redundancy]
            ++ (if (p = none ∨ p = some new.preempt) ∧ (r = none ∨ r = some new.redundancy) then [] else [txt "CLAMPED"]))]
          (s.withOl { s.ol with classes := s.ol.classes.set c new }) s

/-- SPAN stores base with its low k bits cleared, k clamped to 2-10 and distance clamped to 1-14; FAULTSEL replaces the selects of one fault by the words named and leaves its flags (R58, R114). That its answer names them in the order NOTIFY, FREEZE, RESTART is the model's choice (n8). -/
def Obligations.SpanAndFaultselAreTaken : Prop :=
  (∀ (s : State) (args : List Text) (i : Fin 4) (b : Code) (k d : Nat), CanTake .setup s → spanArgs args = some (i, b, k, d) →
      ∃ sp : Span, sp.k = min 10 (max 2 k) ∧ sp.dist.toNat = min 14 (max 1 d) ∧ sp.base.toNat = b.toNat - b.toNat % 2 ^ sp.k
        ∧ Answered (.span args)
            [unwords ([txt "+SPAN", decimal i.val, decimal sp.base.toNat, decimal sp.k, decimal sp.dist.toNat]
              ++ (if sp.k = k ∧ sp.dist.toNat = d ∧ sp.base = b then [] else [txt "CLAMPED"]))]
            (s.withDt { s.dt with spans := place s.dt.spans i (some sp) }) s)
    ∧ ∀ (s : State) (args : List Text) (f : ChannelFault) (n z r : Bool), CanTake .setup s →
        faultselArgs args = some (f, n, z, r) →
        Answered (.faultsel args)
          [unwords ([txt "+FAULTSEL", f.word] ++ whenSet n "NOTIFY" ++ whenSet z "FREEZE" ++ whenSet r "RESTART")]
          (s.withOfm { s.ofm with
            faults := s.ofm.faults.set f { s.ofm.faults.get f with notify := n, freeze := z, restart := r } }) s

/-- TEST starts a self-test and answers nothing; its completion reports the outcome, in a line that keeps no command line waiting (R170), and leaves the counters, the notices and the port as they were (R31, R50, R88, R103, R173). -/
def Obligations.SelfTestsStartAndReport : Prop :=
  (∀ s : State, CanTake .setup s →
      exec (.test1 []) s = .next (s.withOl { s.ol.takeLine (.test1 []) with selfTest := some .loopback })
        ∧ exec (.test2 []) s = .next (s.withOl { s.ol.takeLine (.test2 []) with selfTest := some .frames })
        ∧ exec (.test3 []) s = .next (s.withOl { s.ol.takeLine (.test3 []) with selfTest := some .identities })
        ∧ exec (.test4 []) s = .next (s.withOl { s.ol.takeLine (.test4 []) with selfTest := some .store }))
    ∧ (∀ (s : State) (x : SelfTest), s.ol.selfTest = some x → ∃ t, exec .selfTestComplete s = .next t
        ∧ Placed [⟨unwords [txt "+TEST", decimal x.num, if x.passes s then txt "PASS" else txt "FAIL"], true⟩] s t
        ∧ t.ol.selfTest = none
        ∧ ((t.calm s).withMs s.ms).withIdt s.idt = s.withOl { s.ol with selfTest := none }
        ∧ (x = .loopback ∨ x = .frames → t.ms = s.ms ∧ t.idt = s.idt)
        ∧ (x = .identities → t.ms = s.ms ∧ t.idt = IdTable.reset)
        ∧ (x = .store → t.idt = IdTable.reset ∧ t.ms.slots = Store.reset.slots ∧ t.ms.free = List.finRange 384))
    ∧ framesTest = true ∧ loopbackTest = true

/-- ONAIR is refused with INCOMPLETE until code and callsign are set; then the part goes LIVE: receiver hunting, windows with a zero history, minute events, generator seeded with the own code, timers and listening period started (R174). -/
def Obligations.OnairGoesLive : Prop :=
  ∀ s : State, CanTake .setup s →
    (s.ol.ownCode = none ∨ s.ol.callsign = none → Answered (.onair []) [txt "-INCOMPLETE"] s s)
      ∧ ∀ c t, s.ol.ownCode = some c → s.ol.callsign = some t →
          Answered (.onair []) [unwords [txt "+ONAIR", decimal c.toNat, t]]
            { s with
              ol := { s.ol with phase := .live }
              mp := { s.mp with
                assembler := .hunting, huntBits := 0, huntCount := 0, forming := []
                rxWatch := if s.pins.dcd then some s.now else none }
              ofm := { s.ofm with
                history := List.replicate 16 ⟨0, 0, 0⟩
                window := some ⟨0, 0, 0, s.pins.dcd, false, s.now + s.ol.settings.window⟩ }
              idt := { s.idt with minuteAt := some (s.now + 60000) }
              dt := { s.dt with minuteAt := some (s.now + 60000) }
              ac := { s.ac with
                generator := some (c.setWidth 16), identDue := true, beaconDue := false
                identTimer := if s.ol.settings.ident = 0 then none else some (s.now + s.ol.settings.ident * 60000)
                beaconTimer := if s.ol.settings.beacon = 0 then none else some (s.now + s.ol.settings.beacon * 60000)
                listenEnd := some (s.now + 30000) } } s

/-! ## Listings -/

/-- STATUS, LIST and ROUTES show the state as it stands and change nothing; OUTCOMES lists the records oldest first and empties the list. LIST has one line for each slot that is not FREE, in ascending index; ROUTES the own tier and counts, the single entries in recency order and the four spans; STATUS the lines of Table 11-4 (R86, R117, R165, R175, R176). The words and separators that the spec does not give, which values stand bare and which behind their names, and the order of the FAULT lines and their selects, of the CLASS lines, of the queue counts, of the settings and of the notice kinds, are the model's choice (n8). -/
def Obligations.ListingsShowTheState : Prop :=
  (∀ (s : State) (p : Phase), CanTake p s → Answered (.status []) (txt "+STATUS" :: statusLines s ++ [txt "."]) s s)
    ∧ (∀ s : State, CanTake .live s →
        Answered (.list []) (txt "+LIST" :: listLines s.ms ++ [txt "."]) s s
          ∧ Answered (.routes []) (txt "+ROUTES" :: routesLines s.dt ++ [txt "."]) s s
          ∧ Answered (.outcomes []) (txt "+OUTCOMES" :: s.du.outcomes.map outcomeLine ++ [txt "."])
              (s.withDu { s.du with outcomes := [] }) s)
    ∧ (∀ m : Store, ∃ idx : List (Fin 64), idx.Pairwise (· < ·) ∧ (∀ i, i ∈ idx ↔ look m.slots i ≠ none)
        ∧ (listLines m).length = idx.length
        ∧ ∀ (k : Nat) (i : Fin 64) (sl : Slot), idx[k]? = some i → look m.slots i = some sl → (listLines m)[k]? = some (unwords
            ([decimal i.val, decimal sl.id.origin.toNat ++ txt "/" ++ decimal sl.id.serial.toNat, sl.cls.word, sl.state.word,
              decimal sl.dest.toNat, decimal (sl.blocks.toList.filter Option.isSome).length ++ txt "/" ++ decimal sl.count]
              ++ (if sl.originated ∨ sl.relay ∨ sl.deliverHere ∨ sl.unread then
                  [(if sl.originated then txt "O" else []) ++ (if sl.relay then txt "R" else [])
                    ++ (if sl.deliverHere then txt "D" else []) ++ (if sl.unread then txt "U" else [])]
                else []))))
    ∧ (∀ (i : Identity) (c : Code),
        outcomeLine ⟨i, .delivered c⟩ = decimal i.origin.toNat ++ txt "/" ++ decimal i.serial.toNat ++ txt " DELIVERED " ++ decimal c.toNat
          ∧ outcomeLine ⟨i, .sent⟩ = decimal i.origin.toNat ++ txt "/" ++ decimal i.serial.toNat ++ txt " SENT"
          ∧ outcomeLine ⟨i, .failed⟩ = decimal i.origin.toNat ++ txt "/" ++ decimal i.serial.toNat ++ txt " FAILED")
    ∧ (∀ t : DistTable, (routesLines t).length = t.singles.length + 5
        ∧ (routesLines t)[0]? = some (decimal t.ownTier.toNat ++ txt " " ++ decimal t.pinnedCount ++ txt " " ++ decimal t.singles.length)
        ∧ (∀ (k : Nat) (e : Single), t.singles[k]? = some e → (routesLines t)[k + 1]? = some (unwords
            ([decimal e.code.toNat, decimal e.dist.toNat, decimal e.via.toNat]
              ++ (match e.direct with
                  | some d => [decimal d.tier.toNat, decimal d.q.toNat]
                  | none => [txt "-"])
              ++ [decimal e.age] ++ (if e.pinned then [txt "PIN"] else []))))
        ∧ ∀ i : Fin 4, (routesLines t)[t.singles.length + 1 + i.val]? = some (match look t.spans i with
            | some sp => unwords [decimal i.val, txt "SPAN", decimal sp.base.toNat, decimal sp.k, decimal sp.dist.toNat]
            | none => unwords [decimal i.val, txt "SPAN", txt "UNSET"]))
    ∧ ∀ s : State, (statusLines s).length = 18
        ∧ (statusLines s)[0]? = some (unwords [txt "PHASE", if s.ol.phase = .live then txt "LIVE" else txt "SETUP",
            (s.ol.ownCode.map fun c => decimal c.toNat).getD (txt "UNSET"), s.ol.callsign.getD (txt "UNSET"), txt "CENTRE",
            if s.ol.centre then txt "ON" else txt "OFF"])
        ∧ (statusLines s)[1]? = some (unwords [txt "COUNTERS", decimal s.fh.accepted.toNat, decimal s.fh.checkfail.toNat,
            decimal s.fh.malformed.toNat, decimal s.fh.truncated.toNat, decimal s.fh.overrun.toNat, decimal s.fh.dropped.toNat])
        ∧ (statusLines s)[2]? = some (unwords [txt "STORE", decimal s.ms.freeSlots, decimal s.ms.freeBlocks,
            if s.ms.freeSlots < 8 ∨ s.ms.freeBlocks < 48 then txt "CONGESTED" else txt "CLEAR"])
        ∧ (statusLines s)[3]? = some (unwords [txt "IDTAB", decimal s.idt.valid, decimal s.idt.free.length,
            decimal s.ol.settings.idlife])
        ∧ (statusLines s)[4]? = some (unwords [txt "DIST", decimal s.dt.ownTier.toNat, decimal s.dt.singles.length])
        ∧ (statusLines s)[5]? = some (unwords [txt "OCC", decimal s.ofm.u, if s.frozen then txt "FROZEN" else txt "FREE",
            decimal (s.ofm.history.map fun r => r.frames).sum, decimal (s.ofm.history.map fun r => r.failed).sum])
        ∧ (∀ (k : Nat) (f : ChannelFault), [ChannelFault.checkStorm, .stuckCarrier, .txTimeout, .clockLoss][k]? = some f →
            (statusLines s)[6 + k]? = some (unwords ([txt "FAULT", f.word, if (s.ofm.faults.get f).live then txt "LIVE" else txt "CLEAR",
              if (s.ofm.faults.get f).held then txt "HELD" else txt "CLEAR"]
              ++ (if (s.ofm.faults.get f).notify then [txt "NOTIFY"] else []) ++ (if (s.ofm.faults.get f).freeze then [txt "FREEZE"] else [])
              ++ (if (s.ofm.faults.get f).restart then [txt "RESTART"] else []))))
        ∧ (statusLines s)[10]? = some (unwords ([txt "ACCESS", s.ac.access.word, decimal s.ac.queues.life.length,
            decimal s.ac.queues.urgent.length, decimal s.ac.queues.welfare.length, decimal s.ac.queues.routine.length]
            ++ (if s.ac.quiet then [txt "QUIET"] else []) ++ (if s.ac.listenEnd = none then [] else [txt "LISTEN"])
            ++ (if s.ac.identDue then [txt "IDENT-DUE"] else []) ++ (if s.ac.beaconDue then [txt "BEACON-WANTED"] else [])))
        ∧ (statusLines s)[11]? = some (unwords [txt "POOL", decimal (s.du.pool.filter fun r => r.waitingUntil != none).length,
            decimal (s.du.pool.filter fun r => r.waitingUntil == none).length, decimal s.du.outcomes.length, decimal s.du.serial.toNat])
        ∧ (statusLines s)[12]? = some (unwords (txt "TIMING" :: settingNames.flatMap fun n => [n.word, decimal (s.ol.settings.get n)]))
        ∧ (∀ (k : Nat) (c : MsgClass), [MsgClass.life, .urgent, .welfare, .routine][k]? = some c →
            (statusLines s)[13 + k]? = some (unwords [txt "CLASS", c.word, txt "PREEMPT",
              if (s.ol.classes.get c).preempt then txt "ON" else txt "OFF", txt "REDUNDANCY", decimal (s.ol.classes.get c).redundancy]))
        ∧ (statusLines s)[17]? = some (unwords (txt "NOTICE" :: s.ol.notices.words ++ txt "MASKED" :: s.ol.masked.words))

/-! ## Posting, fetching, cancelling -/

/-- POST starts body collection in either phase with no answer; each body line joins the body after a line break, its first "." removed, up to 512 bytes stored (R11, R172). That a POST with a word missing or a word too many does so as well (n34), and that a "." with a mark is a body line (n10), is the model's reading. -/
def Obligations.PostCollectsBodyLines : Prop :=
  (∀ (s : State) (p : Phase) (args : List Text), CanTake p s →
      exec (.post args) s = .next (s.withOl { s.ol.takeLine (.post args) with post := some ⟨args, [], 0, 0, false, false, false⟩ }))
    ∧ ∀ (s : State) (c : Collection) (l : OpLine) (line : Text), s.ol.post = some c → isClosing l = false →
        (l.text = 0x2E :: line ∨ (l.text = line ∧ ∀ r, line ≠ 0x2E :: r)) →
        exec (.bodyLine l) s = .next (s.withOl { s.ol.takeLine (.bodyLine l) with
          post := some { c with
            body := (c.body ++ ((if c.lines = 0 then [] else [0x0A]) ++ line)).take 512
            total := c.total + ((if c.lines = 0 then [] else [0x0A]) ++ line).length
            lines := c.lines + 1
            overrun := c.overrun || l.overrun
            tooLong := c.tooLong || l.tooLong
            badChar := c.badChar || l.text.any (fun x => decide (x.toNat < 0x20 ∨ 0x7E < x.toNat)) } })

/-- The closing line refuses a POST by the first check of R172 that applies, and nothing but the collection changes. That a POST line with a word missing or a word too many is refused here, with SYNTAX, is the model's reading (n34). -/
def Obligations.ClosingLineRefusesInOrder : Prop :=
  ∀ (s : State) (c : Collection), s.ol.post = some c →
    (s.ol.phase = .setup → Answered .closingLine [txt "-STATE"] (s.withOl { s.ol with post := none }) s)
      ∧ (s.ol.phase = .live → postArgs s.ol.ownCode c.args = none →
          Answered .closingLine [txt "-SYNTAX"] (s.withOl { s.ol with post := none }) s)
      ∧ ∀ a, s.ol.phase = .live → postArgs s.ol.ownCode c.args = some a →
          (c.overrun = true → Answered .closingLine [txt "-OVERRUN"] (s.withOl { s.ol with post := none }) s)
            ∧ (c.overrun = false → c.tooLong = true ∨ c.total = 0 ∨ 512 < c.total →
                Answered .closingLine [txt "-LENGTH"] (s.withOl { s.ol with post := none }) s)
            ∧ (c.overrun = false → c.tooLong = false → c.total ≠ 0 → c.total ≤ 512 → c.badChar = true →
                Answered .closingLine [txt "-SYNTAX"] (s.withOl { s.ol with post := none }) s)

/-- A POST whose checks pass. Serials whose identity the table holds are passed over. With a FREE slot and enough free blocks the message takes the first free serial, the lowest FREE slot and the tail of its class queue; its entry is STORED, originated and linked; its body reads back from the store. Short of room, the victims that the request needs go FREE with DROPPED, each counted and noticed, and the message is stored; with too few victims, or no place for its identity, the answer is FULL and nothing is taken. The victims are the first of the eligible slots, by class number and then completion time, that cover the shortfall (R5, R77, R78, R83, R153). That HELD and QUEUED victims are noted, as they stood, with the moment is the model's means for Table 8-6 (n31). -/
def Obligations.AcceptedPostIsQueued : Prop :=
  (∀ (s : State) (c : Collection) (a : Code × MsgClass × Option Nat) (own : Code) (k : Nat) (v : Serial) (vs : List (Fin 64)),
      PostReady s c a own → k ≤ 1280 → Nat.repeat (fun x : Serial => if x = 0xFFFF then 1 else x + 1) k s.du.serial = v →
      (∀ j < k, s.idt.find ⟨own, Nat.repeat (fun x : Serial => if x = 0xFFFF then 1 else x + 1) j s.du.serial⟩ ≠ none) →
      s.idt.find ⟨own, v⟩ = none → (look s.idt.buckets (bucketOf ⟨own, v⟩)).primA = none →
      s.ms.Conserved → s.ms.plan a.2.1 1 (segments c.total) = some vs →
      ∃ t i sl, exec .closingLine s = .next t
        ∧ Replied .closingLine
            [unwords ([txt "+POST", identityText ⟨own, v⟩] ++ (if hopsClamped a.2.2 then [txt "CLAMPED"] else []))] s t
        ∧ t.ol.post = none ∧ t.du = { s.du with serial := if v = 0xFFFF then 1 else v + 1 }
        ∧ look t.ms.slots i = some sl ∧ (look s.ms.slots i = none ∨ i ∈ vs)
        ∧ (∀ j, j < i → look s.ms.slots j ≠ none ∧ j ∉ vs)
        ∧ (∀ j, j ≠ i → look t.ms.slots j = if j ∈ vs then none else look s.ms.slots j)
        ∧ sl.state = .queued ∧ sl.id = ⟨own, v⟩ ∧ sl.dest = a.1 ∧ sl.cls = a.2.1 ∧ sl.used = 0
        ∧ sl.budget = BitVec.ofNat 4 ((a.2.2.map (clamp 1 15)).getD s.ol.settings.hops)
        ∧ sl.bodyLength = c.total ∧ sl.count = segments c.total ∧ sl.originated = true ∧ sl.relay = false ∧ sl.deliverHere = false
        ∧ sl.retries = s.ol.settings.retry ∧ sl.resumeAt = 0 ∧ sl.deadline = none ∧ sl.completion = s.now
        ∧ t.ms.body sl = c.body ∧ t.ac.queues.get a.2.1 = s.ac.queues.get a.2.1 ++ [i]
        ∧ t.idt.entry ⟨own, v⟩ = some ⟨⟨own, v⟩, .stored, some i, 0, s.idt.sweep.isSome, true, none, false⟩
        ∧ (∀ j sj e, j ∈ vs → look s.ms.slots j = some sj → s.idt.entry sj.id = some e →
            t.idt.entry sj.id = some { e with disposition := .dropped, link := none, age := 0 })
        ∧ t.fh = { s.fh with dropped := Nat.repeat satInc vs.length s.fh.dropped }
        ∧ t.ol.notices = (if vs = [] then s.ol.notices else s.ol.notices.put .dropped true)
        ∧ (∀ x : Slot, (t.ms.evictedAt = s.now ∧ x ∈ t.ms.evicted) ↔ (s.ms.evictedAt = s.now ∧ x ∈ s.ms.evicted)
            ∨ ∃ j ∈ vs, look s.ms.slots j = some x ∧ (x.state = .held ∨ x.state = .queued))
        ∧ (vs = [] → t.ms.freeBlocks + segments c.total = s.ms.freeBlocks
            ∧ ∀ x, x ≠ a.2.1 → t.ac.queues.get x = s.ac.queues.get x)
        ∧ t.mp = s.mp ∧ t.ofm = s.ofm ∧ t.dt = s.dt ∧ t.pins = s.pins ∧ t.now = s.now)
    ∧ (∀ (s : State) (c : Collection) (a : Code × MsgClass × Option Nat) (own : Code), PostReady s c a own →
        (s.idt.find ⟨own, s.du.serial⟩ = none → (look s.idt.buckets (bucketOf ⟨own, s.du.serial⟩)).primA = none →
            s.ms.plan a.2.1 1 (segments c.total) = none →
            Answered .closingLine [txt "-FULL"] (s.withOl { s.ol with post := none }) s)
          ∧ (s.idt.insert ⟨own, s.du.serial⟩ .stored true = .failed →
            Answered .closingLine [txt "-FULL"] (s.withOl { s.ol with post := none }) s))
    ∧ ∀ (m : Store) (p : MsgClass) (slots blocks : Nat),
        (∀ i sl, (i, sl) ∈ m.victims p ↔ look m.slots i = some sl ∧ sl.originated = false ∧ sl.deliverHere = false
          ∧ p.num < sl.cls.num ∧ (sl.state = .assembling ∨ sl.state = .held ∨ sl.state = .await
            ∨ (sl.state = .queued ∧ sl.resumeAt = 0)))
          ∧ (m.victims p).Pairwise (fun x y => y.2.cls.num < x.2.cls.num
              ∨ (x.2.cls.num = y.2.cls.num ∧ x.2.completion ≤ y.2.completion))
          ∧ (∀ vs, m.plan p slots blocks = some vs ↔
              ∃ n, n ≤ (m.victims p).length ∧ vs = ((m.victims p).take n).map Prod.fst
                ∧ (∀ k ≤ n, k = n ↔ slots ≤ m.freeSlots + k
                    ∧ blocks ≤ m.freeBlocks + (((m.victims p).take k).map fun x => x.2.attached.length).sum))

/-- FETCH answers with the selected message and makes it the fetch reference; BUSY while one is set, NOSUCH when nothing is selected. Without an argument it selects a deliver-here, unread, complete message such that none is of a higher class, and none of its class completed earlier, or as early in a lower slot (R161, R176); with an identity, a slot that holds it; and it selects nothing only when there is no such slot. The header has the words of R176; the body is divided at each line break, a line that begins with a dot gets one more before it, and a byte outside 0x20-0x7E is shown as a question mark (R13). That the whole block is composed when FETCH is taken is the model's reading (n23). -/
def Obligations.FetchShowsTheSelectedMessage : Prop :=
  (∀ (s : State) (args : List Text) (id : Option Identity), CanTake .live s → fetchArg args = some id →
      (s.du.fetchRef.isSome = true → Answered (.fetch args) [txt "-BUSY"] s s)
        ∧ (s.du.fetchRef = none → s.ms.selectUnread id = none → Answered (.fetch args) [txt "-NOSUCH"] s s)
        ∧ ∀ i sl, s.du.fetchRef = none → s.ms.selectUnread id = some (i, sl) →
            Answered (.fetch args) (fetchHeader sl :: shownBody (s.ms.body sl) ++ [txt "."])
              (s.withDu { s.du with fetchRef := some i }) s)
    ∧ (∀ (m : Store) (i : Fin 64) (sl : Slot), m.selectUnread none = some (i, sl) →
        look m.slots i = some sl ∧ sl.fetchable = true
          ∧ ∀ j sj, look m.slots j = some sj → sj.fetchable = true →
              sl.cls.num ≤ sj.cls.num ∧ (sj.cls = sl.cls → sl.completion ≤ sj.completion
                ∧ (sj.completion = sl.completion → i ≤ j)))
    ∧ (∀ (m : Store) (x : Identity) (i : Fin 64) (sl : Slot), m.selectUnread (some x) = some (i, sl) →
        look m.slots i = some sl ∧ sl.fetchable = true ∧ sl.id = x)
    ∧ (∀ m : Store, m.selectUnread none = none → ∀ i sl, look m.slots i = some sl → sl.fetchable = false)
    ∧ (∀ (m : Store) (x : Identity), m.selectUnread (some x) = none →
        ∀ i sl, look m.slots i = some sl → sl.id = x → sl.fetchable = false)
    ∧ (∀ sl : Slot, (sl.fetchable = true ↔ sl.deliverHere = true ∧ sl.unread = true ∧ sl.state ≠ .assembling)
        ∧ fetchHeader sl = txt "+FETCH " ++ decimal sl.id.origin.toNat ++ txt "/" ++ decimal sl.id.serial.toNat ++ txt " " ++ sl.cls.word
          ++ txt " " ++ decimal sl.dest.toNat ++ txt " " ++ decimal sl.bodyLength
          ++ (if sl.answered then txt " ANSWERED" else txt " UNANSWERED"))
    ∧ (∀ a b : Text, 0x0A ∉ a → shownBody a = [shownLine a] ∧ shownBody (a ++ 0x0A :: b) = shownLine a :: shownBody b)
    ∧ shownLine [] = []
    ∧ ∀ (c : Byte) (a shown : Text), shown = (c :: a).map (fun x => if 0x20 ≤ x.toNat ∧ x.toNat ≤ 0x7E then x else 0x3F) →
        shownLine (c :: a) = if c = 0x2E then 0x2E :: shown else shown

/-- FETCH_COMPLETE: the reference becomes absent; an INBOX slot goes FREE with DELIVERED, another stays with unread no (R162). The characters left up to the closing line are sent at once, all of the output when the block is not placed yet, and under OHOLD the row has no effect unless the last character is being sent: the model's reading of the row (n3, n17). -/
def Obligations.FetchCompletionReadsTheMessage : Prop :=
  (∀ (s : State) (i : Fin 64) (sl : Slot), s.du.fetchRef = some i → look s.ms.slots i = some sl →
      s.pins.ohold = false ∨ (s.ol.sending = true ∧ s.ol.fetchLeft = some 1) →
      ∃ t, exec .fetchComplete s = .next t ∧ t.du = { s.du with fetchRef := none }
        ∧ (∀ n, s.ol.fetchLeft = some n → t.ol = { s.ol with
            output := s.ol.output.drop n, sending := !(s.ol.output.drop n).isEmpty && !s.pins.ohold, fetchLeft := none })
        ∧ (s.ol.fetchLeft = none → t.ol = { s.ol with
            output := [], waiting := [], blockOpen := false, unmasking := none, sending := false })
        ∧ (sl.state = .inbox → look t.ms.slots i = none ∧ t.ms.free = s.ms.free ++ sl.attached
            ∧ ∀ e, s.idt.entry sl.id = some e →
                t.idt.entry sl.id = some { e with disposition := .delivered, link := none, age := 0 })
        ∧ (sl.state ≠ .inbox → look t.ms.slots i = some { sl with unread := false } ∧ t.ms.free = s.ms.free ∧ t.idt = s.idt)
        ∧ (∀ j, j ≠ i → look t.ms.slots j = look s.ms.slots j) ∧ t.ms.blocks = s.ms.blocks
        ∧ t.mp = s.mp ∧ t.ofm = s.ofm ∧ t.fh = s.fh ∧ t.dt = s.dt ∧ t.ac = s.ac)
    ∧ ∀ s : State, s.du.fetchRef = none ∨ (s.pins.ohold = true ∧ ¬(s.ol.sending = true ∧ s.ol.fetchLeft = some 1)) →
        exec .fetchComplete s = .next s

/-- CANCEL: SYNTAX for a serial outside 1-65535, STATE in SETUP; NOSUCH when no slot holds the identity (own code, serial) with originated yes, BUSY when it is ON-AIR; otherwise the slot goes FREE with FAILED, with no outcome and no notice (R158). -/
def Obligations.CancelFreesThePostedMessage : Prop :=
  (∀ (s : State) (args : List Text), s.ol.phase = .setup → s.ol.answered = true → s.ol.post = none → s.ol.selfTest = none →
      Answered (.cancel args) [txt "-STATE"] s s)
    ∧ (∀ (s : State) (args : List Text), CanTake .live s → serialArg args = none → Answered (.cancel args) [txt "-SYNTAX"] s s)
    ∧ (∀ (s : State) (args : List Text) (n : Serial) (own : Code), CanTake .live s → serialArg args = some n →
        s.ol.ownCode = some own →
        (s.ms.posted ⟨own, n⟩ = none → Answered (.cancel args) [txt "-NOSUCH"] s s)
          ∧ ∀ i sl, s.ms.posted ⟨own, n⟩ = some (i, sl) →
              (sl.state = .onAir → Answered (.cancel args) [txt "-BUSY"] s s)
                ∧ (sl.state ≠ .onAir →
                    Answered (.cancel args) [txt "+CANCEL " ++ identityText ⟨own, n⟩] (freeSlot i .failed s) s))
    ∧ ∀ (m : Store) (x : Identity),
        (m.posted x = none → ∀ j sj, look m.slots j = some sj → ¬(sj.originated = true ∧ sj.id = x))
          ∧ ∀ i sl, m.posted x = some (i, sl) → look m.slots i = some sl ∧ sl.originated = true ∧ sl.id = x

/-- A slot that goes FREE: its blocks to the tail of the free list in ascending index, its record gone, its entry unlinked with the disposition named and age 0, its place in its class queue given up; nothing else but AC's evaluation (R71, R98). -/
def Obligations.FreeingASlotFollowsItsSteps : Prop :=
  ∀ (i : Fin 64) (d : Disposition) (s : State) (sl : Slot), look s.ms.slots i = some sl →
    look (freeSlot i d s).ms.slots i = none ∧ (freeSlot i d s).ms.free = s.ms.free ++ sl.attached
      ∧ (freeSlot i d s).ms.blocks = s.ms.blocks
      ∧ (∀ j, j ≠ i → look (freeSlot i d s).ms.slots j = look s.ms.slots j)
      ∧ (∀ e, s.idt.entry sl.id = some e →
          (freeSlot i d s).idt.entry sl.id = some { e with disposition := d, link := none, age := 0 })
      ∧ (s.idt.entry sl.id = none → (freeSlot i d s).idt = s.idt)
      ∧ (sl.state = .queued → (freeSlot i d s).ac.queues = leave s.ac.queues sl.cls i)
      ∧ (sl.state ≠ .queued → (freeSlot i d s).ac = s.ac)
      ∧ (((freeSlot i d s).withMs s.ms).withIdt s.idt).withAc s.ac = s

/-! ## LIVE commands -/

/-- PIN and UNPIN write the pinned field of a single entry in place; PIN is refused with FULL at 8, both with NOSUCH without an entry. PURGE removes every unpinned single entry, from an aging pass under way as well, recomputes own tier and reports the number removed; the spans stay; in SETUP it is refused with STATE (R111, R112, R113). -/
def Obligations.PinUnpinAndPurge : Prop :=
  (∀ (s : State) (args : List Text) (c : Code), CanTake .live s → codeArg args = some c →
      (s.dt.single c = none → Answered (.pin args) [txt "-NOSUCH"] s s ∧ Answered (.unpin args) [txt "-NOSUCH"] s s)
        ∧ (∀ e, s.dt.single c = some e → e.pinned = false → 8 ≤ s.dt.pinnedCount → Answered (.pin args) [txt "-FULL"] s s)
        ∧ (∀ e t, s.dt.single c = some e → e.pinned = true ∨ s.dt.pinnedCount < 8 →
            t = { s.dt with singles := s.dt.singles.map fun x => if x.code = c then { x with pinned := true } else x } →
            Answered (.pin args) [unwords [txt "+PIN", decimal c.toNat, decimal t.pinnedCount]] (s.withDt t) s)
        ∧ ∀ e t, s.dt.single c = some e →
            t = { s.dt with singles := s.dt.singles.map fun x => if x.code = c then { x with pinned := false } else x } →
            Answered (.unpin args) [unwords [txt "+UNPIN", decimal c.toNat, decimal t.pinnedCount]] (s.withDt t) s)
    ∧ (∀ s : State, s.ol.phase = .setup → s.ol.answered = true → s.ol.post = none → s.ol.selfTest = none →
        Answered (.purge []) [txt "-STATE"] s s)
    ∧ ∀ s : State, CanTake .live s →
        Answered (.purge []) [txt "+PURGE " ++ decimal (s.dt.singles.length - (s.dt.singles.filter fun e => e.pinned).length)]
          (s.withDt { s.dt with
            singles := s.dt.singles.filter fun e => e.pinned
            pass := s.dt.pass.map fun cs => cs.filter fun c => (s.dt.singles.filter fun e => e.pinned).any fun e => e.code == c
            ownTier := computeTier s.ol.centre (s.dt.singles.filter fun e => e.pinned) }) s

/-- MASK and UNMASK write the mask alone and report it, the pending set stays; a kind that UNMASK takes out of the mask is not emitted before its response; QUIET and RESUME write the QUIET flag and AC evaluates, and a repeated one changes nothing; RESTART sends one restart request more (R63, R137, R148, R177). The answer of UNMASK is the model's reading (n19), and the order in which the masked kinds are listed its choice (n8). -/
def Obligations.MaskQuietResumeAndRestart : Prop :=
  ∀ s : State, CanTake .live s →
    (∀ args k, noticeArg args = some k → k ≠ .inboxLife →
        Answered (.mask args) [unwords (txt "+MASK" :: (s.ol.masked.put k true).words)]
          (s.withOl { s.ol with masked := s.ol.masked.put k true }) s)
      ∧ (∀ args k, noticeArg args = some k → ∃ t, exec (.unmask args) s = .next t
          ∧ Replied (.unmask args) [unwords (txt "+MASK" :: (s.ol.masked.put k false).words)]
              (s.withOl { s.ol with unmasking := if s.ol.masked.has k then some k else s.ol.unmasking }) t
          ∧ t.calm s = s.withOl { s.ol with masked := s.ol.masked.put k false })
      ∧ Answered (.quiet []) [txt "+QUIET"] (if s.ac.quiet then s else evaluate (s.withAc { s.ac with quiet := true })) s
      ∧ Answered (.resume []) [txt "+RESUME"] (if s.ac.quiet then evaluate (s.withAc { s.ac with quiet := false }) else s) s
      ∧ Answered (.restart []) [txt "+RESTART"] (s.withOfm { s.ofm with requests := s.ofm.requests + 1 }) s

/-- FAULTCLR clears the held flags of faults that are not live, thaws and recomputes u when the last freezing one clears, and reports what is still held (R56, R64). The order in which the answer names the faults is the model's choice (n8). -/
def Obligations.FaultclrClearsWhatIsNotLive : Prop :=
  ∀ s : State, CanTake .live s →
    ∃ t, exec (.faultclr []) s = .next t
      ∧ (∀ f, t.ofm.faults.get f = { s.ofm.faults.get f with held := (s.ofm.faults.get f).held && (s.ofm.faults.get f).live })
      ∧ t.ofm.u = (if s.frozen && !t.frozen then 100 * (s.ofm.history.map HistoryRecord.carrierMs).sum / (16 * s.ol.settings.window)
          else s.ofm.u)
      ∧ Replied (.faultclr []) [unwords (txt "+FAULTCLR" :: t.ofm.faults.heldWords)] s t
      ∧ (t.calm s).withOfm { t.ofm with faults := s.ofm.faults, u := s.ofm.u } = s

/-! ## Access -/

/-- AC's evaluation, in IDLE, BARRED or DEFERRING: IDLE without a ready train, BARRED behind a bar, DEFERRING behind the carrier, else a draw: the generator advances one step and the delay is the low k bits of its value times SLOT, k by class and by whether u is 50 or more. A train is ready while a queue holds a slot, the pool a READY record that is not named, or beacon-wanted is set; its class is that of the highest queue, else of the first receipt, else ROUTINE; it is barred by QUIET, by the listening period unless the LIFE queue holds a slot, and by a live CLOCK-LOSS. In COUNTING the delay runs on while the train class is that of its draw; with nothing ready AC is IDLE; with another class it defers or draws afresh. It changes AC alone, and nothing in KEYED (R137 to R141). That a bar which arose in COUNTING takes AC from DEFERRING to BARRED without a draw is the model's reading (n33). -/
def Obligations.EvaluationFollowsTheTests : Prop :=
  (∀ s : State, (evaluate s).withAc s.ac = s ∧ (s.ac.access = .keyed → evaluate s = s)
      ∧ (evaluate s).ac.queues = s.ac.queues)
    ∧ (∀ s : State, s.ac.access = .idle ∨ s.ac.access = .barred ∨ s.ac.access = .deferring →
        (trainReady s = false → (evaluate s).ac.access = .idle)
          ∧ (trainReady s = true → barred s = true → (evaluate s).ac.access = .barred)
          ∧ (trainReady s = true → barred s = false → s.pins.dcd = true →
              ¬(trainClass s = .life ∧ s.ofm.faults.stuckCarrier.live = true) → (evaluate s).ac.access = .deferring)
          ∧ ∀ g, trainReady s = true → barred s = false →
              (s.pins.dcd = false ∨ (trainClass s = .life ∧ s.ofm.faults.stuckCarrier.live = true)) →
              s.ac.generator = some g →
              (evaluate s).ac.access = .counting ∧ (evaluate s).ac.drawClass = some (trainClass s)
                ∧ (evaluate s).ac.generator = some (nextRegister g)
                ∧ (evaluate s).ac.delayEnd = some (s.now +
                    (nextRegister g).toNat % 2 ^ drawBits (trainClass s) s.ofm.u * s.ol.settings.slot))
    ∧ (∀ s : State, s.ac.access = .counting →
        (trainReady s = true → s.ac.drawClass = some (trainClass s) → evaluate s = s)
          ∧ (trainReady s = false → evaluate s = s.withAc { s.ac with access := .idle, delayEnd := none, drawClass := none })
          ∧ (trainReady s = true → s.ac.drawClass ≠ some (trainClass s) →
              (s.pins.dcd = true → ¬(trainClass s = .life ∧ s.ofm.faults.stuckCarrier.live = true) →
                evaluate s = s.withAc { s.ac with access := .deferring, delayEnd := none, drawClass := none })
              ∧ ∀ g, s.pins.dcd = false ∨ (trainClass s = .life ∧ s.ofm.faults.stuckCarrier.live = true) →
                  s.ac.generator = some g →
                  evaluate s = s.withAc { s.ac with
                    access := .counting, drawClass := some (trainClass s), generator := some (nextRegister g)
                    delayEnd := some (s.now +
                      (nextRegister g).toNat % 2 ^ drawBits (trainClass s) s.ofm.u * s.ol.settings.slot) }))
    ∧ (∀ u : Nat, drawBits .life u = 0
        ∧ drawBits .urgent u = (if u < 50 then 1 else 2) ∧ drawBits .welfare u = (if u < 50 then 2 else 3)
        ∧ drawBits .routine u = (if u < 50 then 3 else 4))
    ∧ (∀ g : BitVec 16, nextRegister g = (g >>> 1) ^^^ (if g.getLsbD 0 then 0xB400 else 0))
    ∧ ∀ s : State,
        (barred s = true ↔ s.ac.quiet = true ∨ (s.ac.listenEnd ≠ none ∧ s.ac.queues.get .life = [])
          ∨ s.ofm.faults.clockLoss.live = true)
          ∧ (trainReady s = true ↔ (∃ c, s.ac.queues.get c ≠ []) ∨ (∃ r ∈ s.du.pool, (∃ t, r.state = .ready t) ∧ r.named = false)
            ∨ s.ac.beaconDue = true)
          ∧ (∀ c, s.ac.queues.get c ≠ [] → (∀ d, d.num < c.num → s.ac.queues.get d = []) → trainClass s = c)
          ∧ ((∀ c, s.ac.queues.get c = []) → (∀ r, firstReceipt s.du.pool = some r → trainClass s = r.cls)
              ∧ (firstReceipt s.du.pool = none → trainClass s = .routine))

/-- ACCESS_DELAY_END: with nothing ready AC is IDLE; behind a bar the delay is spent (BARRED), behind the carrier as well (DEFERRING), unless a LIFE train overrides it. Otherwise MP keys up. The head of the highest queue, if there is one, leaves its queue and is ON-AIR. The first frame is a BEACON while ident-due is set, also alone; else the message's segment at its resume index; without a message the first READY receipt, by class and then by ready time, its record named. Each frame carries what R18 to R21 and R129 say (R34, R42, R136 to R143). -/
def Obligations.AccessDelayEndKeysUpOrIsSpent : Prop :=
  (∀ (s : State) (t₀ : Nat), s.ac.access = .counting → s.ac.delayEnd = some t₀ → t₀ ≤ s.now → s.ol.phase = .live →
    s.mp.key = .unkeyed →
    (trainReady s = false →
        exec .accessDelayEnd s = .next (s.withAc { s.ac with access := .idle, delayEnd := none, drawClass := none }))
      ∧ (trainReady s = true → barred s = true →
          exec .accessDelayEnd s = .next (s.withAc { s.ac with access := .barred, delayEnd := none, drawClass := none }))
      ∧ (trainReady s = true → barred s = false → s.pins.dcd = true →
          ¬(trainClass s = .life ∧ s.ofm.faults.stuckCarrier.live = true) →
          exec .accessDelayEnd s = .next (s.withAc { s.ac with access := .deferring, delayEnd := none, drawClass := none }))
      ∧ (barred s = false → s.pins.dcd = false ∨ (trainClass s = .life ∧ s.ofm.faults.stuckCarrier.live = true) →
          (∀ i sl, headSlot s.ac.queues = some i → look s.ms.slots i = some sl →
              ∃ t, exec .accessDelayEnd s = .next t ∧ t.ac.queues = leave s.ac.queues sl.cls i ∧ t.du = s.du
                ∧ t.ms = s.ms.modSlot i (fun sl => { sl with state := .onAir })
                ∧ (s.ac.identDue = true → Keyed s t (beaconOf s) ∧ t.dt = s.dt)
                ∧ (s.ac.identDue = false → (∀ j sj, look s.ms.slots j = some sj → sj.state ≠ .onAir) →
                    Keyed s t (segmentOf s i sl sl.resumeAt)
                    ∧ t.dt = (s.dt.query s.ol.ownCode sl.dest).2))
            ∧ ((∀ c, s.ac.queues.get c = []) →
                (s.ac.identDue = true → trainReady s = true →
                  ∃ t, exec .accessDelayEnd s = .next t ∧ Keyed s t (beaconOf s) ∧ t.ac.queues = s.ac.queues
                    ∧ t.ms = s.ms ∧ t.du = s.du ∧ t.dt = s.dt)
                ∧ ∀ r, s.ac.identDue = false → (∀ j sj, look s.ms.slots j = some sj → sj.state ≠ .onAir) →
                    firstReceipt s.du.pool = some r →
                    ∃ t, exec .accessDelayEnd s = .next t ∧ Keyed s t (receiptOf s r) ∧ t.ac.queues = s.ac.queues
                      ∧ t.ms = s.ms ∧ t.du = { s.du with pool := namedFor r.id s.du.pool }
                      ∧ t.dt = (s.dt.query s.ol.ownCode r.id.origin).2)))
    ∧ (∀ (q : PerClass (List (Fin 64))) (i : Fin 64),
        headSlot q = some i ↔ ∃ c, (q.get c).head? = some i ∧ ∀ d, d.num < c.num → q.get d = [])
    ∧ (∀ pool : List Receipt,
        (firstReceipt pool = none → ∀ x ∈ pool, x.named = true ∨ ∃ u, x.state = .waiting u)
          ∧ ∀ r, firstReceipt pool = some r → r ∈ pool ∧ r.named = false
              ∧ ∃ t, r.state = .ready t ∧ ∀ x ∈ pool, ∀ u, x.state = .ready u → x.named = false →
                  r.cls.num ≤ x.cls.num ∧ (x.cls = r.cls → t ≤ u))
    ∧ ∀ (m : Store) (sl : Slot) (k : Fin 8) (b : Fin 384), look sl.blocks k = some b →
        m.segment sl k = (look m.blocks b).toList.take (if k.val + 1 < sl.count then 64 else sl.bodyLength - 64 * (sl.count - 1))

/-- FRAME_SENT drives the bits that are left up to the last check bit and counts the frame against the train. A segment that is not the last: the resume index moves on and the next segment follows, or, in a full train or under pre-emption, the message returns to the head of its queue with its resume index and the train ends. The last segment: AWAIT with its echo deadline and sent distance, or with budget 1 the end of its work, RELAYED (SENT for a bulletin posted here; INBOX for a bulletin still unread), and the train ends when nothing follows. A BEACON: both flags clear and both timers restart, and the message's segment follows, or, in a full train or under pre-emption, the message returns to the head of its queue and the train ends. A receipt: its record leaves and receipt relayed is set. After the last segment, after a receipt, and after a BEACON in a train without a message, the first READY receipt follows, its record named. Each frame carries what R18 to R21 and R129 say (R43, R84, R143 to R145, R147, R155, R164). That the row stands for all the falling edges of TXC that are left, also for those of a frame held with the key-up timer run out, is the model's choice (n4, n22). -/
def Obligations.FrameSentIsReportedAndFollowed : Prop :=
  (∀ (s : State) (f : TxFrame) (i : Fin 64) (k : Fin 8) (sl : Slot) (b : Bool), Sends s f → f.item = .traffic i k →
      f.bits.getLast? = some b → s.ofm.txLoss = false → look s.ms.slots i = some sl → sl.state = .onAir →
      (∀ j sj, look s.ms.slots j = some sj → sj.state = .onAir → j = i) → s.ac.access = .keyed →
      ∃ t, exec .frameSent s = .next t ∧ t.mp.key = .sending ∧ t.mp.txd = b ∧ t.mp.limitEnd = s.mp.limitEnd
        ∧ t.mp.assembler = s.mp.assembler ∧ t.mp.buffers = s.mp.buffers
        ∧ (∀ j, j ≠ i → look t.ms.slots j = look s.ms.slots j) ∧ t.ms.blocks = s.ms.blocks
        ∧ t.fh = s.fh ∧ t.ofm = s.ofm ∧ t.ol = s.ol ∧ t.pins = s.pins
        ∧ (k.val + 1 < sl.count → s.ac.sent + 1 < s.ol.settings.train →
            (∀ x, x.num < sl.cls.num → s.ac.queues.get x ≠ [] → x ≠ .life ∧ (s.ol.classes.get x).preempt = false) →
            look t.ms.slots i = some { sl with resumeAt := Fin.ofNat 8 (k.val + 1) } ∧ t.ac = { s.ac with sent := s.ac.sent + 1 }
              ∧ t.mp.frame = some (segmentOf s i sl (Fin.ofNat 8 (k.val + 1))) ∧ t.dt = (s.dt.query s.ol.ownCode sl.dest).2
              ∧ t.idt = s.idt ∧ t.du = s.du)
        ∧ (k.val + 1 < sl.count → (s.ol.settings.train ≤ s.ac.sent + 1
              ∨ ∃ x, x.num < sl.cls.num ∧ s.ac.queues.get x ≠ [] ∧ (x = .life ∨ (s.ol.classes.get x).preempt = true)) →
            look t.ms.slots i = some { sl with state := .queued, resumeAt := Fin.ofNat 8 (k.val + 1) }
              ∧ t.ac = { s.ac with sent := s.ac.sent + 1, queues := joinHead s.ac.queues sl.cls i }
              ∧ t.mp.frame = none ∧ t.dt = s.dt ∧ t.idt = s.idt ∧ t.du = s.du)
        ∧ (∀ r, sl.count ≤ k.val + 1 → s.ac.sent + 1 < s.ol.settings.train → firstReceipt s.du.pool = some r →
            t.mp.frame = some (receiptOf (s.withMs t.ms) r) ∧ t.du.pool = namedFor r.id s.du.pool
              ∧ t.dt = (s.dt.query s.ol.ownCode r.id.origin).2)
        ∧ (sl.count ≤ k.val + 1 → t.ac = { s.ac with sent := s.ac.sent + 1 }
          ∧ (s.ol.settings.train ≤ s.ac.sent + 1 ∨ firstReceipt s.du.pool = none →
              t.mp.frame = none ∧ t.dt = s.dt ∧ t.du.pool = s.du.pool)
          ∧ t.du.serial = s.du.serial ∧ t.du.fetchRef = s.du.fetchRef
          ∧ (2 ≤ sl.budgetSent → look t.ms.slots i = some { sl with
                state := .await, resumeAt := 0, sentDist := some f.dist
                deadline := some (s.now + (if sl.originated
                  then min 480 (s.ol.settings.echo * 2 ^ (s.ol.settings.retry - sl.retries)) else s.ol.settings.echo) * 1000) }
              ∧ t.idt = s.idt ∧ t.du.outcomes = s.du.outcomes)
          ∧ (sl.budgetSent ≤ 1 → sl.originated = true ∨ ¬(sl.deliverHere = true ∧ sl.unread = true) →
              look t.ms.slots i = none ∧ t.ms.free = s.ms.free ++ sl.attached ∧ t.idt = s.idt.unlink sl.id .relayed
              ∧ t.du.outcomes = (if sl.originated = true ∧ sl.dest = 4095
                  then (if s.du.outcomes.length < 16 then s.du.outcomes else s.du.outcomes.drop 1) ++ [⟨sl.id, .sent⟩]
                  else s.du.outcomes))
          ∧ (sl.budgetSent ≤ 1 → sl.originated = false → sl.deliverHere = true → sl.unread = true →
              look t.ms.slots i = some { sl with state := .inbox, resumeAt := 0, deadline := none, sentDist := none }
              ∧ t.idt = s.idt ∧ t.du.outcomes = s.du.outcomes)))
    ∧ (∀ (s : State) (f : TxFrame), Sends s f → f.item = .beacon → s.ofm.txLoss = false →
        ∃ t, exec .frameSent s = .next t ∧ t.ac.identDue = false ∧ t.ac.beaconDue = false ∧ t.ac.sent = s.ac.sent + 1
          ∧ t.ac.identTimer = (if s.ol.settings.ident = 0 then none else some (s.now + s.ol.settings.ident * 60000))
          ∧ t.ac.beaconTimer = (if s.ol.settings.beacon = 0 then none else some (s.now + s.ol.settings.beacon * 60000))
          ∧ t.idt = s.idt ∧ t.fh = s.fh ∧ t.ofm = s.ofm ∧ t.ol = s.ol ∧ t.mp.key = .sending
          ∧ (∀ i sl, s.ms.onAir = some i → look s.ms.slots i = some sl → s.ac.sent + 1 < s.ol.settings.train →
              (∀ k, k.num < sl.cls.num → s.ac.queues.get k ≠ [] → k ≠ .life ∧ (s.ol.classes.get k).preempt = false) →
              t.ms = s.ms ∧ t.mp.frame = some (segmentOf s i sl sl.resumeAt))
          ∧ (s.ms.onAir = none → s.ac.sent + 1 < s.ol.settings.train →
              (∀ r, firstReceipt s.du.pool = some r →
                  t.mp.frame = some (receiptOf s r) ∧ t.du = { s.du with pool := namedFor r.id s.du.pool })
                ∧ (firstReceipt s.du.pool = none → t.mp.frame = none ∧ t.du = s.du))
          ∧ (∀ i sl, s.ms.onAir = some i → look s.ms.slots i = some sl → s.ac.access = .keyed →
              (s.ol.settings.train ≤ s.ac.sent + 1
                ∨ ∃ k, k.num < sl.cls.num ∧ s.ac.queues.get k ≠ [] ∧ (k = .life ∨ (s.ol.classes.get k).preempt = true)) →
              t.mp.frame = none ∧ t.ms = s.ms.modSlot i (fun x => { x with state := .queued })
                ∧ t.ac.queues = joinHead s.ac.queues sl.cls i ∧ t.ac.access = .keyed ∧ t.du = s.du ∧ t.dt = s.dt)
          ∧ (s.ol.settings.train ≤ s.ac.sent + 1 → s.ms.onAir = none → t.mp.frame = none ∧ t.ms = s.ms ∧ t.du = s.du))
    ∧ ∀ (s : State) (f : TxFrame) (id : Identity) (e : Entry) (left : List Receipt), Sends s f →
        f.item = .receipt id → s.ofm.txLoss = false → s.ms.onAir = none → s.idt.entry id = some e →
        left = s.du.pool.filter (fun x => !(x.id == id && x.named)) →
        ∃ t, exec .frameSent s = .next t ∧ t.mp.key = .sending
          ∧ t.idt.entry id = some { e with receiptRelayed := true, age := 0 } ∧ t.ms = s.ms ∧ t.ol = s.ol
          ∧ (s.ol.settings.train ≤ s.ac.sent + 1 ∨ firstReceipt left = none → t.mp.frame = none ∧ t.du = { s.du with pool := left })
          ∧ ∀ r, s.ac.sent + 1 < s.ol.settings.train → firstReceipt left = some r →
              t.mp.frame = some (receiptOf s r) ∧ t.du = { s.du with pool := namedFor r.id left }
                ∧ t.dt = (s.dt.query s.ol.ownCode r.id.origin).2

/-- KEYUP_EXPIRY stops the key-up timer and waits for the clock. A falling edge of TXC drives the next alternating bit in KEYUP; with the timer run out, the first bit of the frame held, entering SENDING; in SENDING the next bit of the frame, the last one as FRAME_SENT does; after the last frame the first trailer bit; and the eighth trailer bit's end is TRAIN_ENDED. TRAIN_ENDED unkeys, lets the receiver hunt again and clears a live TX-TIMEOUT, its held flag staying, and nothing else of the Monitor; AC evaluates afresh, its evaluation being that from IDLE without a delay (R32, R42 to R44, R47, R61, R144). That TRANSMIT_CLOCK_RESUMES stands for any one edge of TXC, and FRAME_SENT and TRAIN_ENDED for all up to theirs, is the model's choice (n4). -/
def Obligations.KeyupBeginsAndTrainEndUnkeys : Prop :=
  (∀ (s : State) (t₀ : Nat), s.mp.key = .keyup → s.mp.keyupEnd = some t₀ → t₀ ≤ s.now →
      exec .keyupExpiry s = .next (s.withMp { s.mp with keyupEnd := none }))
    ∧ (∀ s : State, s.ofm.txLoss = false →
        (∀ t₀, s.mp.key = .keyup → s.mp.keyupEnd = some t₀ → exec (.transmitClockResumes .falling) s = .next (s.withMp { s.mp with
            txd := !s.mp.txd, txWatch := some s.now }))
          ∧ (∀ f, Sends s f → f.position + 1 < f.bits.length → exec (.transmitClockResumes .falling) s = .next (s.withMp { s.mp with
              key := .sending, txd := f.bits.getD f.position true, frame := some { f with position := f.position + 1 }
              txWatch := some s.now }))
          ∧ (s.mp.key = .sending → s.mp.frame = none → exec (.transmitClockResumes .falling) s = .next (s.withMp { s.mp with
              key := .trailer 1, txd := true, txWatch := some s.now }))
          ∧ ∀ n, s.mp.key = .trailer n → n < 8 → exec (.transmitClockResumes .falling) s = .next (s.withMp { s.mp with
              key := .trailer (n + 1), txd := true, txWatch := some s.now }))
    ∧ (∀ (s : State) (f : TxFrame), Sends s f → f.position + 1 = f.bits.length →
        exec (.transmitClockResumes .falling) s = exec .frameSent s)
    ∧ (∀ s : State, s.mp.key = .trailer 8 → exec (.transmitClockResumes .falling) s = exec .trainEnded s)
    ∧ (∀ (f : TxFrame) (b : Byte) (rest : List Byte), f.bytes = b :: rest →
        f.bits.length = 8 * f.bytes.length ∧ f.bits.take 8 = (List.range 8).map fun i => b.getLsbD i)
    ∧ ∀ (s : State) (n : Nat), s.MonitorSound → s.mp.key = .trailer n ∨ (s.mp.key = .sending ∧ s.mp.frame = none) →
        s.ol.phase = .live → s.ofm.txLoss = false →
        ∃ t, exec .trainEnded s = .next t
          ∧ t.mp = { s.mp with
              key := .unkeyed, txd := true, frame := none, keyupEnd := none, limitEnd := none, txWatch := none
              assembler := .hunting, huntBits := 0, huntCount := 0, forming := [] }
          ∧ t.ofm = { s.ofm with faults := { s.ofm.faults with txTimeout := { s.ofm.faults.txTimeout with live := false } } }
          ∧ t.ac = evaluatedAc (t.withAc { s.ac with access := .idle, delayEnd := none, drawClass := none })
          ∧ t.ac.access ≠ .keyed ∧ t.ac.queues = s.ac.queues
          ∧ ((t.withMp s.mp).withOfm s.ofm).withAc s.ac = s

/-- TIME_LIMIT_EXPIRY cuts the train: PTT falls, the ON-AIR message returns to the head of its queue with resume index 0 and its retries, with none ON-AIR nothing returns, a receipt cut stays READY and can be named again, a BEACON cut leaves its flags and timers, and TX-TIMEOUT is live and held (R45, R61, R146). -/
def Obligations.TimeLimitCutsTheTrain : Prop :=
  ∀ (s : State) (t₀ : Nat), s.MonitorSound → s.mp.limitEnd = some t₀ → t₀ ≤ s.now → s.mp.key ≠ .unkeyed → s.ol.phase = .live →
    ∃ t, exec .timeLimitExpiry s = .next t
      ∧ t.mp.key = .unkeyed ∧ t.mp.txd = true ∧ t.mp.frame = none ∧ t.mp.limitEnd = none ∧ t.mp.assembler = .hunting
      ∧ (∀ i sl, s.ms.onAir = some i → look s.ms.slots i = some sl →
          look t.ms.slots i = some { sl with state := .queued, resumeAt := 0 }
            ∧ (∀ j, j ≠ i → look t.ms.slots j = look s.ms.slots j) ∧ t.ac.queues = joinHead s.ac.queues sl.cls i)
      ∧ (s.ms.onAir = none → t.ms = s.ms ∧ t.ac.queues = s.ac.queues) ∧ t.ac.access ≠ .keyed
      ∧ t.du = { s.du with pool := s.du.pool.map fun x => { x with named := false } }
      ∧ t.ac.identDue = s.ac.identDue ∧ t.ac.beaconDue = s.ac.beaconDue
      ∧ t.ac.identTimer = s.ac.identTimer ∧ t.ac.beaconTimer = s.ac.beaconTimer
      ∧ t.ofm.faults.txTimeout.live = true ∧ t.ofm.faults.txTimeout.held = true
      ∧ (s.ofm.faults.txTimeout.live = false → s.ofm.faults.txTimeout.held = false →
          t.ofm.requests = s.ofm.requests + (if s.ofm.faults.txTimeout.restart then 1 else 0)
            ∧ t.ol.notices.fault = (s.ol.notices.fault || s.ofm.faults.txTimeout.notify))
      ∧ t.ofm.txLoss = false ∧ t.dt = s.dt ∧ t.idt = s.idt ∧ t.fh = s.fh

/-! ## Channel restart -/

/-- CHANNEL_RESTART, keyed or not: PTT falls, the ON-AIR message returns to its head with resume index 0, reception is abandoned, FULL buffers are emptied and one IN HANDLING stays, a receipt cut stays READY and can be named again, a running delay is abandoned, ident-due is set and AC evaluates afresh, or, as the second of two that arrive together, only sets ident-due; the tables, counters, windows, timers, every other fault flag and select, the receive clock condition and the operator line stay, and the transmit clock condition ends, so that CLOCK-LOSS is live with the receive condition alone (R47, R48, R62, R63, R87, R135, R146, R150). That requests are counted down by one, that a restart is carried out with none counted, that one which finds AC KEYED makes one evaluation, and that a partly filled hunting register is emptied also where R48 says that nothing changes at the port, is the model's reading (n16, n32, n35), and so is what it takes as two restarts that arrive together: at one millisecond, with no draw between them (n36). -/
def Obligations.ChannelRestartAbandonsTheChannel : Prop :=
  ∀ s : State, s.MonitorSound → s.PortAgrees → s.ol.phase = .live →
    ∃ t, exec .channelRestart s = .next t
      ∧ t.mp.key = .unkeyed ∧ t.mp.assembler = .hunting ∧ t.mp.huntCount = 0 ∧ t.mp.fullOrder = []
      ∧ (∀ b, look t.mp.buffers b = (match look s.mp.buffers b with
          | .inHandling x q => .inHandling x q
          | _ => .empty))
      ∧ t.mp.rxWatch = s.mp.rxWatch
      ∧ (s.ptt = true → t.mp.txd = true ∧ t.mp.frame = none ∧ t.mp.limitEnd = none ∧ t.mp.keyupEnd = none)
      ∧ (∀ i sl, s.ptt = true → s.ms.onAir = some i → look s.ms.slots i = some sl →
          look t.ms.slots i = some { sl with state := .queued, resumeAt := 0 }
            ∧ (∀ j, j ≠ i → look t.ms.slots j = look s.ms.slots j) ∧ t.ac.queues = joinHead s.ac.queues sl.cls i)
      ∧ (s.ptt = false ∨ s.ms.onAir = none → t.ms = s.ms ∧ t.ac.queues = s.ac.queues)
      ∧ t.du.pool = (if s.ptt then s.du.pool.map fun x => { x with named := false } else s.du.pool)
      ∧ (s.ptt = false → s.ac.restart = some (s.now, s.ac.generator) → t.ac = { s.ac with identDue := true })
      ∧ (s.ptt = true ∨ s.ac.restart ≠ some (s.now, s.ac.generator) → t.ac.restart = some (s.now, t.ac.generator)
          ∧ ∃ u, t.ac = { (evaluate u).ac with restart := t.ac.restart } ∧ (t.withAc s.ac) = u.withAc s.ac
              ∧ u.ac = { s.ac with access := .idle, delayEnd := none, drawClass := none, identDue := true, queues := t.ac.queues })
      ∧ t.ac.identDue = true ∧ t.ac.beaconDue = s.ac.beaconDue ∧ t.ac.access ≠ .keyed ∧ t.ac.quiet = s.ac.quiet
      ∧ t.ac.identTimer = s.ac.identTimer ∧ t.ac.beaconTimer = s.ac.beaconTimer ∧ t.ac.listenEnd = s.ac.listenEnd
      ∧ t.ofm = { s.ofm with
          requests := s.ofm.requests - 1, txLoss := false
          faults := { s.ofm.faults with clockLoss := { s.ofm.faults.clockLoss with live := s.ofm.rxLoss } } }
      ∧ t.du.serial = s.du.serial ∧ t.du.outcomes = s.du.outcomes ∧ t.du.fetchRef = s.du.fetchRef
      ∧ t.dt = s.dt ∧ t.idt = s.idt ∧ t.fh = s.fh ∧ t.ol = s.ol

/-! ## Reception -/

/-- DCD_ASSERTED empties the hunting register, starts the receive clock watch and abandons a running delay of a train that does not override the carrier (R35, R46, R140). -/
def Obligations.CarrierRiseAbandonsTheDelay : Prop :=
  ∀ s : State, s.pins.dcd = false → s.ol.phase = .live →
    ∃ t, exec .dcdAsserted s = .next t ∧ t.pins = { s.pins with dcd := true }
      ∧ t.mp = { s.mp with huntBits := 0, huntCount := 0, rxWatch := some s.now }
      ∧ (s.ac.access = .counting → ¬(trainClass s = .life ∧ s.ofm.faults.stuckCarrier.live = true) →
          t.ac = { s.ac with access := .deferring, delayEnd := none, drawClass := none })
      ∧ ((t.withPins s.pins).withMp s.mp).withAc s.ac = s

/-- DCD_DEASSERTED truncates a frame under reception, ends the STUCK-CARRIER run and its live flag, marks the window, stops the receive clock watch and ends its condition; AC evaluates on what is then so, and a deferring train that is ready and not barred draws its delay (R35, R39, R46, R52, R60, R137 to R140). -/
def Obligations.CarrierFallTruncatesTheFrame : Prop :=
  ∀ s : State, s.pins.dcd = true → s.ofm.txLoss = false →
    ∃ t, exec .dcdDeasserted s = .next t ∧ t.pins = { s.pins with dcd := false } ∧ t.mp.rxWatch = none
      ∧ (∀ b, s.mp.assembler = .gathering b → t.mp.assembler = .hunting ∧ t.mp.huntCount = 0
          ∧ t.mp.buffers = place s.mp.buffers b .empty ∧ t.fh = { s.fh with truncated := satInc s.fh.truncated })
      ∧ (∀ n, s.mp.assembler = .skipping n → t.mp.assembler = .hunting ∧ t.mp.huntCount = 0 ∧ t.mp.buffers = s.mp.buffers
          ∧ t.fh = s.fh)
      ∧ (s.mp.assembler = .hunting ∨ s.mp.assembler = .off →
          t.mp.assembler = s.mp.assembler ∧ t.mp.huntCount = 0 ∧ t.mp.buffers = s.mp.buffers ∧ t.fh = s.fh)
      ∧ t.ofm.stuckRun = 0 ∧ t.ofm.faults.stuckCarrier = { s.ofm.faults.stuckCarrier with live := false }
      ∧ t.ofm.rxLoss = false ∧ t.ofm.faults.clockLoss.live = false
      ∧ t.ofm.window = s.ofm.window.map (fun w => { w with throughout := false })
      ∧ t.ofm.u = s.ofm.u ∧ t.ofm.history = s.ofm.history
      ∧ t.ac = evaluatedAc (t.withAc s.ac)
      ∧ (∀ g, s.ac.access = .deferring → trainReady s = true → s.ac.quiet = false →
          (s.ac.listenEnd = none ∨ s.ac.queues.life ≠ []) → s.ac.generator = some g →
          t.ac.access = .counting ∧ t.ac.drawClass = some (trainClass s) ∧ t.ac.generator = some (nextRegister g)
            ∧ t.ac.delayEnd = some (s.now +
                (nextRegister g).toNat % 2 ^ drawBits (trainClass s) s.ofm.u * s.ol.settings.slot))
      ∧ t.ms = s.ms ∧ t.dt = s.dt ∧ t.idt = s.idt ∧ t.du = s.du ∧ t.ol = s.ol

/-- In HUNTING each RXD sample taken while DCD is asserted is shifted into the hunting register; once 24 are in it and they are the sync, buffer 0 is claimed if it is EMPTY, else buffer 1, and with none EMPTY the frame is skipped and OVERRUN counted. It is so for the edge at which the match comes, for SYNC_FOUND with that sample, and for SYNC_FOUND with the 24 bits of the sync from an empty register (R32, R35, R36, R40). That RECEIVE_CLOCK_RESUMES stands for any one edge of RXC and SYNC_FOUND carries samples (n4), and that a SYNC_FOUND without the match has no effect (n3), is the model's choice. -/
def Obligations.SyncClaimsABufferOrOverruns : Prop :=
  ∀ s : State, s.mp.assembler = .hunting → s.pins.dcd = true → s.ol.phase = .live → s.ofm.rxLoss = false →
    (∀ (b : Bool) (q : Nibble) (bits : BitVec 24), bits = s.mp.huntBits <<< 1 ||| (if b then 1 else 0) →
        (¬(23 ≤ s.mp.huntCount ∧ bits = 0x5AC369) →
          exec (.receiveClockResumes (.rising b q)) s = .next (s.withMp { s.mp with
              huntBits := bits, huntCount := min 24 (s.mp.huntCount + 1), rxWatch := some s.now })
            ∧ exec (.syncFound [b]) s = .next s)
        ∧ (23 ≤ s.mp.huntCount → bits = 0x5AC369 →
          (∃ t, exec (.receiveClockResumes (.rising b q)) s = .next t ∧ SyncTaken s t)
            ∧ ∃ t, exec (.syncFound [b]) s = .next t ∧ SyncTaken s t))
    ∧ (s.mp.huntCount = 0 → ∃ t, exec (.syncFound Config.syncSamples) s = .next t ∧ SyncTaken s t)
    ∧ Config.syncSamples = [false, true, false, true, true, false, true, false, true, true, false, false, false, false, true, true,
        false, true, true, false, true, false, false, true]

/-- The samples that follow a sync form bytes, bit 0 first, which the claimed buffer stores, or which are counted off in a skip. When header, payload and check are all there the frame is FULL behind the others with its QUAL sample; one whose byte 4 is above 73 is abandoned at once and counted MALFORMED, or uncounted when skipped; a skipped one passes uncounted; each time hunting resumes with an empty register. With the receiver OFF nothing is sampled. HANDLING_ENDS releases the buffer IN HANDLING and nothing else (R22, R33, R34, R37, R38, R40, R41). That the rows carry the samples up to their event and RECEIVE_CLOCK_RESUMES one edge (n4), and that they have no effect while the receiver is OFF (n3), is the model's choice. -/
def Obligations.FramesCompleteAreAbandonedOrReleased : Prop :=
  (∀ s : State, s.pins.dcd = true → s.ol.phase = .live → s.ofm.rxLoss = false →
      (∀ (k : Fin 2) (b : Bool) (q : Nibble), s.mp.assembler = .gathering k → s.mp.forming.length < 7 →
          exec (.receiveClockResumes (.rising b q)) s = .next (s.withMp { s.mp with
            forming := s.mp.forming ++ [b], rxWatch := some s.now }))
        ∧ (∀ (k : Fin 2) (head : List Byte) (b : Bool) (q : Nibble), s.mp.assembler = .gathering k →
            look s.mp.buffers k = .filling head → s.mp.forming.length = 7 →
            (head.length < 4 ∨ (payloadLength (head ++ [byteOf (s.mp.forming ++ [b])]) ≤ 73
              ∧ head.length + 1 < 7 + payloadLength (head ++ [byteOf (s.mp.forming ++ [b])]))) →
            exec (.receiveClockResumes (.rising b q)) s = .next (s.withMp { s.mp with
              forming := [], buffers := place s.mp.buffers k (.filling (head ++ [byteOf (s.mp.forming ++ [b])]))
              rxWatch := some s.now }))
        ∧ (∀ (k : Fin 2) (head tail : List Byte) (q : Nibble), s.mp.assembler = .gathering k →
            look s.mp.buffers k = .filling head → s.mp.forming = [] → tail ≠ [] → frameBytesOk (head ++ tail) = true →
            exec (.frameCompletes (frameBits tail) q) s = .next (s.withMp { s.mp with
              assembler := .hunting, huntBits := 0, huntCount := 0, rxWatch := some s.now
              buffers := place s.mp.buffers k (.full (head ++ tail) q), fullOrder := s.mp.fullOrder ++ [k] }))
        ∧ (∀ (k : Fin 2) (head tail : List Byte), s.mp.assembler = .gathering k →
            look s.mp.buffers k = .filling head → s.mp.forming = [] → tail ≠ [] → (head ++ tail).length = 5 →
            73 < payloadLength (head ++ tail) →
            exec (.frameAbandoned (frameBits tail)) s = .next ((s.withMp { s.mp with
              assembler := .hunting, huntBits := 0, huntCount := 0, rxWatch := some s.now
              buffers := place s.mp.buffers k .empty }).withFh { s.fh with malformed := satInc s.fh.malformed }))
        ∧ (∀ (n : Nat) (tail : List Byte) (x : Byte), s.mp.assembler = .skipping n → s.mp.forming = [] → n + tail.length = 4 →
            73 < x.toNat →
            exec (.frameAbandoned (frameBits (tail ++ [x]))) s = .next (s.withMp { s.mp with
              assembler := .hunting, huntBits := 0, huntCount := 0, rxWatch := some s.now, lengthReg := x }))
        ∧ (∀ bytes : List Byte, s.mp.assembler = .skipping 0 → s.mp.forming = [] → frameBytesOk bytes = true →
            exec (.skippedFramePassed (frameBits bytes)) s = .next (s.withMp { s.mp with
              assembler := .hunting, huntBits := 0, huntCount := 0, rxWatch := some s.now, lengthReg := bytes.getD 4 0 }))
        ∧ ∀ (n : Nat) (tail : List Byte), s.mp.assembler = .skipping n → s.mp.forming = [] → 5 ≤ n → tail ≠ [] →
            s.mp.lengthReg.toNat ≤ 73 → n + tail.length = 7 + s.mp.lengthReg.toNat →
            exec (.skippedFramePassed (frameBits tail)) s = .next (s.withMp { s.mp with
              assembler := .hunting, huntBits := 0, huntCount := 0, rxWatch := some s.now }))
    ∧ (∀ (bits : List Bool) (i : Nat), bits.length = 8 → i < 8 → (byteOf bits).getLsbD i = bits.getD i false)
    ∧ (∀ (s : State) (samples : List Bool) (q : Nibble), s.mp.assembler = .off →
        exec (.syncFound samples) s = .next s ∧ exec (.frameAbandoned samples) s = .next s
          ∧ exec (.skippedFramePassed samples) s = .next s ∧ exec (.frameCompletes samples q) s = .next s)
    ∧ ∀ s : State, ∃ t, exec .handlingEnds s = .next t
        ∧ (∀ b, look t.mp.buffers b = (match look s.mp.buffers b with
            | .inHandling _ _ => .empty
            | x => x))
        ∧ t.withMp { t.mp with buffers := s.mp.buffers } = s

/-- FRAME_TAKEN discards a frame at the first validation step it fails: CHECKFAIL and a failed tally, MALFORMED, or the CLASH notice without a count; an accepted BEACON teaches its sender alone. A lesson about a station without a single entry makes one at the front, with the least recent unpinned one removed from a full list; another replaces the entry when its distance is no longer, its via the same or the old entry half of ROUTELIFE old, and is rejected otherwise; own tier follows, 0 at a centre, else the least neighbour tier below 15 plus one, at most 14, else 15. A TRAFFIC or RECEIPT frame teaches its sender and then its origin or deliverer as well, one hop behind the hops used; after these lessons a RECEIPT asks the distance to its origin, and a TRAFFIC frame none or that to its destination. A query answers in the order of Table 7-2, and a single entry that answers moves to the front (R22 to R26, R29, R53, R106 to R110, R115, R116). -/
def Obligations.FrameTakenValidatesInOrder : Prop :=
  (∀ (s : State) (b : Fin 2) (bytes : List Byte) (q : Nibble) (rest : List (Fin 2)) (w : Window),
    (∀ k x y, look s.mp.buffers k ≠ .inHandling x y) → s.mp.fullOrder = b :: rest → look s.mp.buffers b = .full bytes q →
    s.ofm.window = some w →
    ∃ t, exec .frameTaken s = .next t
      ∧ t.mp = { s.mp with buffers := place s.mp.buffers b (.inHandling bytes q), fullOrder := rest }
      ∧ (checkOk bytes = false → t.fh = { s.fh with checkfail := satInc s.fh.checkfail }
          ∧ t.ofm = { s.ofm with window := some { w with frames := min 255 (w.frames + 1), failed := min 255 (w.failed + 1) } }
          ∧ ((t.withMp s.mp).withFh s.fh).withOfm s.ofm = s)
      ∧ (checkOk bytes = true → malformed bytes = true → t.fh = { s.fh with malformed := satInc s.fh.malformed }
          ∧ t.ofm = { s.ofm with window := some { w with frames := min 255 (w.frames + 1) } }
          ∧ ((t.withMp s.mp).withFh s.fh).withOfm s.ofm = s)
      ∧ (checkOk bytes = true → malformed bytes = false → s.ol.ownCode = some (parseHeader bytes).sender →
          t.fh = s.fh ∧ t.ol = { s.ol with notices := s.ol.notices.put .clash true }
          ∧ t.ofm = { s.ofm with window := some { w with frames := min 255 (w.frames + 1) } }
          ∧ ((t.withMp s.mp).withOl s.ol).withOfm s.ofm = s)
      ∧ (checkOk bytes = true → malformed bytes = false → s.ol.ownCode ≠ some (parseHeader bytes).sender →
          (parseHeader bytes).kind = 3 →
          t.fh = { s.fh with accepted := satInc s.fh.accepted }
          ∧ t.ofm.window = some { w with frames := min 255 (w.frames + 1), accepted := true }
          ∧ t.ofm.stuckRun = 0 ∧ t.ofm.faults.stuckCarrier.live = false
          ∧ t.dt = s.dt.learn s.ol.centre s.ol.settings.routelife
              ⟨(parseHeader bytes).sender, 1, (parseHeader bytes).sender,
                some ⟨if (parseHeader bytes).centre then 0 else (parseHeader bytes).tier, q⟩, 0, false, false⟩
          ∧ ((((t.withMp s.mp).withFh s.fh).withOfm s.ofm).withDt s.dt) = s))
    ∧ (∀ (s : State) (h : Header) (tr : Traffic) (q : Nibble) (taught : DistTable), AcceptsTraffic s h tr q →
        taught = (learnFar tr.origin h tr.used (learnSender h q s)).dt →
        ∃ t, exec .frameTaken s = .next t ∧ (t.dt = taught ∨ ∃ x, t.dt = (taught.query s.ol.ownCode x).2
          ∧ (x = tr.dest ∨ ∃ e i sl, s.idt.entry tr.id = some e ∧ e.link = some i ∧ look s.ms.slots i = some sl ∧ x = sl.dest)))
    ∧ (∀ (s : State) (h : Header) (r : ReceiptFrame) (q : Nibble), AcceptsReceipt s h r q →
        ∃ t, exec .frameTaken s = .next t
          ∧ t.dt = ((learnFar r.deliverer h r.used (learnSender h q s)).dt.query s.ol.ownCode r.origin).2)
    ∧ (∀ (h : Header) (q : Nibble) (s : State), learnSender h q s = s.withDt (s.dt.learn s.ol.centre s.ol.settings.routelife
        ⟨h.sender, 1, h.sender, some ⟨if h.centre then 0 else h.tier, q⟩, 0, false, false⟩))
    ∧ (∀ (t u : DistTable) (centre : Bool) (life : Nat) (x : Single), u = t.learn centre life x →
        (t.single x.code = none → u.singles.head? = some { x with fresh := t.pass.isSome } ∧ u.ownTier = computeTier centre u.singles
          ∧ (t.singles.length < 48 → u.singles.tail = t.singles)
          ∧ ∀ l y r, 48 ≤ t.singles.length → t.singles = l ++ y :: r → y.pinned = false → (∀ z ∈ r, z.pinned = true) →
              u.singles.tail = l ++ r)
          ∧ (∀ old, t.single x.code = some old →
              x.dist.toNat ≤ old.dist.toNat ∨ x.via = old.via ∨ life / 2 ≤ old.age →
              u.singles = { x with pinned := old.pinned, fresh := t.pass.isSome } :: (t.singles.filter fun e => e.code != x.code)
                ∧ u.ownTier = computeTier centre u.singles ∧ u.pass = t.pass)
          ∧ (∀ old, t.single x.code = some old →
              ¬(x.dist.toNat ≤ old.dist.toNat ∨ x.via = old.via ∨ life / 2 ≤ old.age) → u = t)
          ∧ u.spans = t.spans)
    ∧ (∀ l : List Single, computeTier true l = 0
        ∧ ((∀ e ∈ l, ∀ d, e.direct = some d → d.tier = 15) → computeTier false l = 15)
        ∧ ∀ e ∈ l, ∀ d, e.direct = some d → d.tier ≠ 15 →
            (∀ x ∈ l, ∀ y, x.direct = some y → d.tier.toNat ≤ y.tier.toNat) → (computeTier false l).toNat = min 14 (d.tier.toNat + 1))
    ∧ (∀ (s : State) (o : Code) (h : Header) (used : Nibble),
        (o ≠ h.sender → s.ol.ownCode ≠ some o → used.toNat + 1 < 15 → learnFar o h used s =
            s.withDt (s.dt.learn s.ol.centre s.ol.settings.routelife ⟨o, used + 1, h.sender, none, 0, false, false⟩))
          ∧ (o = h.sender ∨ s.ol.ownCode = some o ∨ 15 ≤ used.toNat + 1 → learnFar o h used s = s))
    ∧ ∀ (own : Option Code) (t : DistTable) (x : Code),
        (own = some x → t.query own x = (0, t))
          ∧ (own ≠ some x → x = 4094 → t.query own x = (t.ownTier, t))
          ∧ (own ≠ some x → x = 4095 → t.query own x = (15, t))
          ∧ (own ≠ some x → x ≠ 4094 → x ≠ 4095 →
              (∀ e, t.single x = some e → t.query own x = (e.dist, { t with singles := e :: t.singles.filter fun d => d.code != x }))
                ∧ (∀ i sp, t.single x = none → look t.spans i = some sp → x.toNat - x.toNat % 2 ^ sp.k = sp.base.toNat →
                    (∀ j sj, j < i → look t.spans j = some sj → x.toNat - x.toNat % 2 ^ sj.k ≠ sj.base.toNat) →
                    t.query own x = (sp.dist, t))
                ∧ (t.single x = none → (∀ i sp, look t.spans i = some sp → x.toNat - x.toNat % 2 ^ sp.k ≠ sp.base.toNat) →
                    t.query own x = (15, t)))

/-- An accepted TRAFFIC segment. Of an identity that the table does not hold, or holds DROPPED without a slot: one that this station can neither deliver nor relay takes no slot, its identity recorded SEEN; one worth keeping, of several segments, opens the lowest FREE slot ASSEMBLING with its fields, its first block and its deadline, STORED and linked; a single one is HELD with its relay deadline as a candidate, else INBOX. Short of room its victims go FREE with DROPPED first, each counted and noticed, and the slot is the lowest then FREE; without enough victims it takes no slot, its entry stays DROPPED, and DROPPED is counted and noticed, as it is when its identity finds no place in the table, which then stays. One that meets another entry without a slot is a hit only, and so is a stand-down that comes together with the eviction of its slot (Table 8-6; by a POST at the same millisecond: the model's reading, n31). The segment that completes an ASSEMBLING slot takes it to HELD, INBOX or, SEEN, to FREE; one that conflicts counts MALFORMED, one present already is discarded. What is to be delivered here is marked unread and noticed, and a message addressed here gets its receipt, or DROPPED with its notice when the pool is full. A missing segment for which no block is free takes one from victims of a lower class, which go FREE with DROPPED, each counted, or else is discarded, counted and noticed (R26, R27, R72 to R75, R77 to R81, R119 to R122, R128, R159, R164). -/
def Obligations.NewSegmentsAreSeenOrAssembled : Prop :=
  (∀ (s : State) (h : Header) (tr : Traffic) (q : Nibble) (cls : MsgClass) (eff : Nat) (own : Code) (base : Entry),
    AcceptsTraffic s h tr q → MeetsAsNew s h tr q base →
    cls = .ofBits tr.cls → eff = min tr.budget.toNat (15 - tr.used.toNat) → s.ol.ownCode = some own →
    (¬DeliversHere s tr.dest → eff ≤ 1 ∨ (tr.count = 1 ∧ ¬RelayCandidate s h cls tr.dest eff [] s.ms.congested (distanceAfter s h tr q tr.dest)) →
        ∃ t, exec .frameTaken s = .next t ∧ t.fh = { s.fh with accepted := satInc s.fh.accepted }
          ∧ t.ms = s.ms ∧ t.du = s.du ∧ t.ol = s.ol ∧ t.ac.queues = s.ac.queues
          ∧ t.idt.entry tr.id = some { base with disposition := .seen })
      ∧ (NeedsSlot s h tr q → s.ms.plan cls 1 1 = none →
        ∃ t, exec .frameTaken s = .next t ∧ t.ms = s.ms ∧ t.du = s.du ∧ t.ac.queues = s.ac.queues
          ∧ t.fh = { s.fh with accepted := satInc s.fh.accepted, dropped := satInc s.fh.dropped }
          ∧ t.ol = { s.ol with notices := s.ol.notices.put .dropped true }
          ∧ t.idt.entry tr.id = some base ∧ base.disposition = .dropped ∧ base.link = none)
      ∧ (∀ (i : Fin 64) (blk : Fin 384) (free : List (Fin 384)) (vs : List (Fin 64)) (kept : Slot) (o : OperatorLine),
          NeedsSlot s h tr q → s.Linked → s.ms.plan cls 1 1 = some vs → vs ≠ [] →
          (look s.ms.slots i = none ∨ i ∈ vs) → (∀ j, j < i → look s.ms.slots j ≠ none ∧ j ∉ vs) →
          s.ms.free ++ vs.flatMap (fun j => ((look s.ms.slots j).map Slot.attached).getD []) = blk :: free →
          kept = (if 2 ≤ tr.count then openedSlot s tr q blk
            else if RelayCandidate s h cls tr.dest eff [] s.ms.congested (distanceAfter s h tr q tr.dest) then heldSlot s h tr q own blk
            else { openedSlot s tr q blk with state := .inbox, unread := true, deadline := none }) →
          o = (if tr.count = 1 ∧ DeliversHere s tr.dest then inboxNoticed cls s.ol else s.ol) →
          ∃ t, exec .frameTaken s = .next t ∧ look t.ms.slots i = some kept
            ∧ (∀ j, j ≠ i → look t.ms.slots j = if j ∈ vs then none else look s.ms.slots j)
            ∧ t.ms.free = free ∧ t.ms.segment kept (Fin.ofNat 8 tr.index.toNat) = tr.data
            ∧ (∀ c, t.ac.queues.get c = (s.ac.queues.get c).filter fun j => !vs.contains j)
            ∧ (∀ j ∈ vs, ∀ sj x, look s.ms.slots j = some sj → s.idt.entry sj.id = some x →
                t.idt.entry sj.id = some { x with disposition := .dropped, link := none, age := 0 })
            ∧ t.ol = { o with notices := o.notices.put .dropped true }
            ∧ (tr.count = 1 ∧ AddressedHere s tr.dest → t.idt.entry tr.id = some { base with
                disposition := .delivered, link := some i, receiptTime := some s.now })
            ∧ (¬(tr.count = 1 ∧ AddressedHere s tr.dest) →
                t.du = s.du ∧ t.idt.entry tr.id = some { base with disposition := .stored, link := some i })
            ∧ (¬(tr.count = 1 ∧ AddressedHere s tr.dest) ∨ PoolOpen s tr.id →
                t.fh = { s.fh with accepted := satInc s.fh.accepted, dropped := Nat.repeat satInc vs.length s.fh.dropped }))
      ∧ ∀ (i : Fin 64) (blk : Fin 384) (free : List (Fin 384)) (new : Slot), s.ms.lowestFree = some i → s.ms.free = blk :: free →
          new = openedSlot s tr q blk →
          (DeliversHere s tr.dest ∨ 2 ≤ eff → 2 ≤ tr.count →
            ∃ t, exec .frameTaken s = .next t ∧ Stored s t tr i new free ∧ t.du = s.du ∧ t.ol = s.ol
              ∧ t.idt.entry tr.id = some { base with disposition := .stored, link := some i })
          ∧ (tr.count = 1 → RelayCandidate s h cls tr.dest eff [] s.ms.congested (distanceAfter s h tr q tr.dest) →
            ∃ t, exec .frameTaken s = .next t ∧ Stored s t tr i (heldSlot s h tr q own blk) free
              ∧ t.du = s.du ∧ t.ol = (if DeliversHere s tr.dest then inboxNoticed cls s.ol else s.ol)
              ∧ t.idt.entry tr.id = some { base with disposition := .stored, link := some i })
          ∧ (tr.count = 1 → ¬RelayCandidate s h cls tr.dest eff [] s.ms.congested (distanceAfter s h tr q tr.dest) → DeliversHere s tr.dest →
            ¬AddressedHere s tr.dest ∨ PoolOpen s tr.id →
            ∃ t, exec .frameTaken s = .next t
              ∧ Stored s t tr i { new with state := .inbox, unread := true, deadline := none } free
              ∧ t.ol = inboxNoticed cls s.ol
              ∧ t.du = (if AddressedHere s tr.dest then receiptJoined s tr.id cls own else s.du)
              ∧ t.idt.entry tr.id = some { base with
                  link := some i, disposition := if AddressedHere s tr.dest then .delivered else .stored
                  receiptTime := if AddressedHere s tr.dest then some s.now else base.receiptTime })
          ∧ (tr.count = 1 → AddressedHere s tr.dest →
            ∃ t, exec .frameTaken s = .next t ∧ ReceiptAsked s t tr.id cls own (inboxNoticed cls s.ol)
              ∧ look t.ms.slots i = some { new with state := .inbox, unread := true, deadline := none } ∧ t.ms.free = free
              ∧ (∀ j, j ≠ i → look t.ms.slots j = look s.ms.slots j) ∧ t.ac.queues = s.ac.queues
              ∧ t.idt.entry tr.id = some { base with disposition := .delivered, link := some i, receiptTime := some s.now }))
    ∧ (∀ (s : State) (h : Header) (tr : Traffic) (q : Nibble), AcceptsTraffic s h tr q → s.idt.find tr.id = none → s.idt.free = [] →
        (∀ p ∈ s.idt.spots (bucketOf tr.id), ∃ e, s.idt.at p = some e ∧ e.link ≠ none) →
        ∃ t, exec .frameTaken s = .next t ∧ t.ms = s.ms ∧ t.idt = s.idt ∧ t.du = s.du ∧ t.ac.queues = s.ac.queues
          ∧ t.fh = { s.fh with accepted := satInc s.fh.accepted, dropped := satInc s.fh.dropped }
          ∧ t.ol = { s.ol with notices := s.ol.notices.put .dropped true })
    ∧ (∀ (s : State) (h : Header) (tr : Traffic) (q : Nibble) (e : Entry), AcceptsTraffic s h tr q → s.idt.entry tr.id = some e →
        e.link = none → e.disposition ≠ .delivered →
        e.disposition ≠ .dropped ∨ StandDownTooLate s h tr q →
        ∃ t, exec .frameTaken s = .next t ∧ t.fh = { s.fh with accepted := satInc s.fh.accepted } ∧ t.ms = s.ms ∧ t.du = s.du
          ∧ t.ol = s.ol ∧ t.ac.queues = s.ac.queues ∧ t.idt.entry tr.id = some { e with age := 0 })
    ∧ ∀ (s : State) (h : Header) (tr : Traffic) (q : Nibble) (e : Entry) (i : Fin 64) (sl : Slot) (k : Fin 8) (heard : List Code)
        (own : Code) (eff : Nat),
      AcceptsTraffic s h tr q → s.idt.entry tr.id = some e → e.link = some i → look s.ms.slots i = some sl → sl.id = tr.id →
      sl.state = .assembling → sl.originated = false → k = Fin.ofNat 8 tr.index.toNat → s.ol.ownCode = some own →
      heard = (if OverheardRelay h tr (sl.used.toNat + 1) (distanceAfter s h tr q sl.dest) then addHeard sl.heard h.sender
        else sl.heard) → eff = min sl.budget.toNat (15 - sl.used.toNat) →
      ∃ t, exec .frameTaken s = .next t
        ∧ (¬SameMessage sl tr ∨ look sl.blocks k ≠ none ∨ s.ms.free ≠ [] → ∀ j, j ≠ i → look t.ms.slots j = look s.ms.slots j)
        ∧ (SameMessage sl tr → look sl.blocks k = none → s.ms.free = [] →
            (s.ms.plan sl.cls 0 1 = none → look t.ms.slots i = some { sl with heard := heard } ∧ t.ms.free = [] ∧ t.du = s.du
                ∧ (∀ j, j ≠ i → look t.ms.slots j = look s.ms.slots j)
                ∧ t.fh = { s.fh with accepted := satInc s.fh.accepted, dropped := satInc s.fh.dropped }
                ∧ t.ol = { s.ol with notices := s.ol.notices.put .dropped true })
            ∧ ∀ vs, s.ms.plan sl.cls 0 1 = some vs → i ∉ vs ∧ t.ol.notices.has .dropped = true
                ∧ (∀ j, j ≠ i → look t.ms.slots j = if j ∈ vs then none else look s.ms.slots j)
                ∧ (∀ j sj x, j ∈ vs → look s.ms.slots j = some sj → sj.id ≠ tr.id → s.idt.entry sj.id = some x →
                    t.idt.entry sj.id = some { x with disposition := .dropped, link := none, age := 0 })
                ∧ (PoolOpen s tr.id →
                    t.fh = { s.fh with accepted := satInc s.fh.accepted, dropped := Nat.repeat satInc vs.length s.fh.dropped }))
        ∧ (¬SameMessage sl tr → t.fh = { s.fh with accepted := satInc s.fh.accepted, malformed := satInc s.fh.malformed }
            ∧ look t.ms.slots i = some { sl with heard := heard } ∧ t.ms.free = s.ms.free ∧ t.du = s.du ∧ t.ol = s.ol)
        ∧ (SameMessage sl tr → look sl.blocks k ≠ none → t.fh = { s.fh with accepted := satInc s.fh.accepted }
            ∧ look t.ms.slots i = some { sl with heard := heard } ∧ t.ms.free = s.ms.free ∧ t.du = s.du ∧ t.ol = s.ol)
        ∧ ∀ (blk : Fin 384) (free : List (Fin 384)) (done : Slot) (full : Bool), SameMessage sl tr → look sl.blocks k = none →
            s.ms.free = blk :: free → full = decide (s.ms.freeSlots < 8 ∨ free.length < 48) →
            done = { sl with blocks := place sl.blocks k (some blk), heard := heard, completion := s.now, q := q, deadline := none } →
            ((∃ j : Fin 8, j.val < sl.count ∧ look done.blocks j = none) → t.ms.free = free ∧ t.du = s.du ∧ t.ol = s.ol
                ∧ t.fh = { s.fh with accepted := satInc s.fh.accepted }
                ∧ look t.ms.slots i = some { sl with blocks := done.blocks, heard := heard })
            ∧ ((∀ j : Fin 8, j.val < sl.count → look done.blocks j ≠ none) →
                (RelayCandidate s h sl.cls sl.dest eff heard full (distanceAfter s h tr q sl.dest) → t.ms.free = free ∧ t.du = s.du
                  ∧ t.fh = { s.fh with accepted := satInc s.fh.accepted }
                  ∧ t.ol = (if sl.deliverHere then inboxNoticed sl.cls s.ol else s.ol)
                  ∧ look t.ms.slots i = some { done with
                      state := .held, relay := true, unread := sl.unread || sl.deliverHere
                      deadline := some (s.now + contentionCount sl.cls q (progress h.dist (distanceAfter s h tr q sl.dest)) s.ofm.u
                        own sl.id.serial * s.ol.settings.slot) })
                ∧ (¬RelayCandidate s h sl.cls sl.dest eff heard full (distanceAfter s h tr q sl.dest) → sl.deliverHere = true →
                  t.ms.free = free ∧ look t.ms.slots i = some { done with state := .inbox, unread := true }
                    ∧ (AddressedHere s sl.dest ∧ sl.answered = false → ReceiptAsked s t tr.id sl.cls own (inboxNoticed sl.cls s.ol)
                        ∧ t.idt.entry tr.id = some { e with disposition := .delivered, receiptTime := some s.now, age := 0 })
                    ∧ (¬(AddressedHere s sl.dest ∧ sl.answered = false) → t.du = s.du ∧ t.ol = inboxNoticed sl.cls s.ol
                        ∧ t.fh = { s.fh with accepted := satInc s.fh.accepted } ∧ t.idt.entry tr.id = some { e with age := 0 }))
                ∧ (¬RelayCandidate s h sl.cls sl.dest eff heard full (distanceAfter s h tr q sl.dest) → sl.deliverHere = false →
                  look t.ms.slots i = none ∧ t.ms.free = free ++ done.attached ∧ t.du = s.du ∧ t.ol = s.ol
                    ∧ t.fh = { s.fh with accepted := satInc s.fh.accepted }
                    ∧ t.idt.entry tr.id = some { e with disposition := .seen, link := none, age := 0 }))

/-- An accepted RECEIPT at the message it names. A slot not held for delivery and not ON-AIR goes FREE with SETTLED, and one posted here gives the outcome DELIVERED with its deliverer and the notice; one ON-AIR stays; a slot held for delivery is only marked answered elsewhere, unless the receipt is this station's own. An unlinked entry becomes SETTLED, a RELAYED or FAILED one of a message posted here with the outcome and the notice (the late success); a delivered one whose receipt is this station's own, and a settled one posted here, stay. An identity that is not in the table is inserted SETTLED; a failed insert counts DROPPED with its notice (R28, R97, R163, R165, Table 10-1). -/
def Obligations.HeardReceiptsSettleMessages : Prop :=
  ∀ (s : State) (h : Header) (r : ReceiptFrame) (q : Nibble), AcceptsReceipt s h r q → s.du.pool.length < 16 →
    (∀ e, s.idt.entry r.id = some e → ∃ t, exec .frameTaken s = .next t ∧ t.fh = { s.fh with accepted := satInc s.fh.accepted }
      ∧ (∀ i sl, e.link = some i → look s.ms.slots i = some sl → sl.id = r.id →
          (∀ j, j ≠ i → look t.ms.slots j = look s.ms.slots j)
          ∧ (sl.deliverHere = true ∨ sl.state = .onAir → t.ms.free = s.ms.free ∧ t.idt.entry r.id = some { e with age := 0 }
              ∧ t.du.outcomes = s.du.outcomes ∧ t.ol = s.ol ∧ t.ac.queues = s.ac.queues)
          ∧ (sl.deliverHere = true → s.ol.ownCode ≠ some r.deliverer → look t.ms.slots i = some { sl with answered := true })
          ∧ (sl.deliverHere = true ∧ s.ol.ownCode = some r.deliverer ∨ (sl.deliverHere = false ∧ sl.state = .onAir) →
              look t.ms.slots i = some sl)
          ∧ (sl.deliverHere = false → sl.state ≠ .onAir →
              look t.ms.slots i = none ∧ t.ms.free = s.ms.free ++ sl.attached
                ∧ t.ac.queues = (if sl.state = .queued then leave s.ac.queues sl.cls i else s.ac.queues)
                ∧ t.idt.entry r.id = some { e with disposition := .settled, link := none, age := 0 }
                ∧ (sl.originated = true → t.du.outcomes = outcomesWith s ⟨r.id, .delivered r.deliverer⟩
                    ∧ t.ol = { s.ol with notices := { s.ol.notices with delivered := true } })
                ∧ (sl.originated = false → t.du.outcomes = s.du.outcomes ∧ t.ol = s.ol)))
      ∧ (e.link = none → t.ms = s.ms ∧ t.ac.queues = s.ac.queues
          ∧ (e.originated = true ∧ (e.disposition = .relayed ∨ e.disposition = .failed) →
              t.idt.entry r.id = some { e with disposition := .settled, age := 0 }
                ∧ t.du.outcomes = outcomesWith s ⟨r.id, .delivered r.deliverer⟩
                ∧ t.ol = { s.ol with notices := { s.ol.notices with delivered := true } })
          ∧ (¬(e.originated = true ∧ (e.disposition = .relayed ∨ e.disposition = .failed)) →
              t.du.outcomes = s.du.outcomes ∧ t.ol = s.ol
                ∧ t.idt.entry r.id = some (if (e.disposition = .delivered ∧ s.ol.ownCode = some r.deliverer)
                      ∨ (e.originated = true ∧ e.disposition = .settled) then { e with age := 0 }
                    else { e with disposition := .settled, age := 0 }))))
    ∧ (s.idt.find r.id = none → (look s.idt.buckets (bucketOf r.id)).primA = none →
        ∃ t, exec .frameTaken s = .next t ∧ t.fh = { s.fh with accepted := satInc s.fh.accepted } ∧ t.ms = s.ms
          ∧ t.idt.entry r.id = some ⟨r.id, .settled, none, 0, s.idt.sweep.isSome, false, none, false⟩
          ∧ t.du.outcomes = s.du.outcomes ∧ t.ol = s.ol)
    ∧ (s.idt.insert r.id .settled false = .failed →
        ∃ t, exec .frameTaken s = .next t ∧ t.ms = s.ms ∧ t.idt = s.idt ∧ t.du.outcomes = s.du.outcomes
          ∧ t.fh = { s.fh with accepted := satInc s.fh.accepted, dropped := satInc s.fh.dropped }
          ∧ t.ol = { s.ol with notices := { s.ol.notices with dropped := true } })

/-- An accepted RECEIPT in contention. With a record of its identity in the pool it is weighed against that record: a qualifying one adds its sender to the heard-from set, and the record leaves the pool when the set reaches REDUNDANCY; another changes nothing. Without a record, a candidate by Table 8-7 asks for a WAITING one, with the budget and hops of the relayed copy and its deadline the contention count times SLOT away. It joins a pool with room; from a full pool it displaces the WAITING record of a lower class that comes last by class, deadline and joining, or it is turned away, and either way DROPPED counts with its notice (R126, R130, R131, R133, R164). -/
def Obligations.HeardReceiptsContend : Prop :=
  (∀ (s : State) (h : Header) (r : ReceiptFrame) (q o : Nibble) (own : Code), AcceptsReceipt s h r q →
      o = distanceToOrigin s h r q → s.ol.ownCode = some own →
      ∃ t, exec .frameTaken s = .next t ∧ t.du.serial = s.du.serial ∧ t.du.fetchRef = s.du.fetchRef
        ∧ (∀ (rec : Receipt) (heard : List Code), s.du.pool.find? (fun x => x.id == r.id) = some rec →
            heard = addHeard rec.heard h.sender →
            (¬OverheardReceipt h r rec o → t.du.pool = s.du.pool)
              ∧ (OverheardReceipt h r rec o → heard.length < (s.ol.classes.get rec.cls).redundancy →
                  t.du.pool = s.du.pool.map fun x => if x.id = r.id then { x with heard := heard } else x)
              ∧ (OverheardReceipt h r rec o → (s.ol.classes.get rec.cls).redundancy ≤ heard.length →
                  t.du.pool = s.du.pool.filter fun x => x.id != r.id))
        ∧ ((∀ x ∈ s.du.pool, x.id ≠ r.id) → ¬ReceiptCandidate s h r o → t.du.pool = s.du.pool)
        ∧ ∀ (cls : MsgClass) (new : Receipt), (∀ x ∈ s.du.pool, x.id ≠ r.id) → ReceiptCandidate s h r o → cls = .ofBits r.cls →
            new = {
              id := r.id, cls := cls, deliverer := r.deliverer, used := r.used + 1, heard := [], named := false
              budget := BitVec.ofNat 4 (min r.budget.toNat (15 - r.used.toNat) - 1)
              state := .waiting (s.now
                + contentionCount cls q (progress h.dist o) s.ofm.u own r.serial * s.ol.settings.slot) } →
            (s.du.pool.length < 16 → t.du.pool = s.du.pool ++ [new] ∧ t.fh.dropped = s.fh.dropped)
              ∧ (∀ d, 16 ≤ s.du.pool.length → displaced cls s.du.pool = some d →
                  t.du.pool = s.du.pool.filter (fun x => x.id != d.id) ++ [new] ∧ t.fh.dropped = satInc s.fh.dropped
                    ∧ t.ol.notices.has .dropped = true)
              ∧ (16 ≤ s.du.pool.length → displaced cls s.du.pool = none →
                  t.du.pool = s.du.pool ∧ t.fh.dropped = satInc s.fh.dropped ∧ t.ol.notices.has .dropped = true))
    ∧ (∀ (p : MsgClass) (l before after : List Receipt) (d : Receipt) (t : Nat), l = before ++ d :: after → d.state = .waiting t →
        p.num < d.cls.num →
        (∀ x ∈ before, ∀ u, x.state = .waiting u → x.cls.num < d.cls.num ∨ (x.cls = d.cls ∧ u ≤ t)) →
        (∀ x ∈ after, ∀ u, x.state = .waiting u → x.cls.num < d.cls.num ∨ (x.cls = d.cls ∧ u < t)) →
        displaced p l = some d)
    ∧ ∀ (p : MsgClass) (l : List Receipt),
        displaced p l = none ↔ ∀ x ∈ l, ∀ u, x.state = .waiting u → x.cls.num ≤ p.num

/-- An accepted TRAFFIC copy of a message met before. In AWAIT, at an originated slot it is the echo: FREE with RELAYED, and SENT for a bulletin; at a relayed one it is one when its CONGESTED flag is 0, its hops used are at least 2 above the stored and its sender is no farther than this station was: FREE with RELAYED, or INBOX for a bulletin still unread. A copy of an originated slot that is QUEUED or ON-AIR is a hit only. In HELD, QUEUED or ON-AIR a copy of one hop more, from a sender no farther, joins the heard-from set, and a slot that may stand down does so when the set reaches REDUNDANCY: FREE with RELAYED, or INBOX for one still unread. A copy of a message delivered here reissues the receipt when it is the last segment, ECHO seconds after the last receipt, with none in the pool; a full pool counts DROPPED with its notice (R125 to R127, R154, R156, R160, R164). That the test on hops used is the same for an ON-AIR slot (n29), and that a receipt is reissued without asking whether another station has answered (n13), is the model's reading. -/
def Obligations.EchoesEndTheWait : Prop :=
  (∀ (s : State) (h : Header) (tr : Traffic) (q : Nibble) (e : Entry) (i : Fin 64) (sl : Slot),
    AcceptsTraffic s h tr q → s.idt.entry tr.id = some e → e.link = some i → look s.ms.slots i = some sl → sl.id = tr.id →
    ∃ t, exec .frameTaken s = .next t
      ∧ (sl.state ≠ .assembling → ∀ j, j ≠ i → look t.ms.slots j = look s.ms.slots j)
      ∧ (sl.state = .await → t.fh = { s.fh with accepted := satInc s.fh.accepted } ∧ t.ol = s.ol
          ∧ (sl.originated = true → look t.ms.slots i = none ∧ t.ms.free = s.ms.free ++ sl.attached
              ∧ t.idt.entry tr.id = some { e with disposition := .relayed, link := none, age := 0 }
              ∧ t.du.outcomes = (if sl.dest = 4095
                  then (if s.du.outcomes.length < 16 then s.du.outcomes else s.du.outcomes.drop 1) ++ [⟨tr.id, .sent⟩]
                  else s.du.outcomes))
          ∧ ∀ d, sl.originated = false → sl.sentDist = some d → t.du = s.du
              ∧ (OverheardRelay h tr (sl.used.toNat + 2) d → ¬(sl.deliverHere = true ∧ sl.unread = true) →
                  look t.ms.slots i = none ∧ t.ms.free = s.ms.free ++ sl.attached
                    ∧ t.idt.entry tr.id = some { e with disposition := .relayed, link := none, age := 0 })
              ∧ (OverheardRelay h tr (sl.used.toNat + 2) d → sl.deliverHere = true → sl.unread = true →
                  look t.ms.slots i = some { sl with state := .inbox, deadline := none, sentDist := none }
                    ∧ t.ms.free = s.ms.free ∧ t.idt.entry tr.id = some { e with age := 0 })
              ∧ (¬OverheardRelay h tr (sl.used.toNat + 2) d → t.ms = s.ms ∧ t.idt.entry tr.id = some { e with age := 0 }))
      ∧ (sl.state = .queued ∨ sl.state = .onAir → sl.originated = true →
          t.fh = { s.fh with accepted := satInc s.fh.accepted } ∧ t.ms = s.ms ∧ t.du = s.du ∧ t.ol = s.ol
            ∧ t.ac.queues = s.ac.queues ∧ t.idt.entry tr.id = some { e with age := 0 })
      ∧ (sl.state = .inbox → e.disposition ≠ .delivered → t.ms = s.ms ∧ t.du = s.du ∧ t.ol = s.ol
          ∧ t.idt.entry tr.id = some { e with age := 0 })
      ∧ (sl.state = .held ∨ sl.state = .queued ∨ sl.state = .onAir → sl.originated = false →
          t.fh = { s.fh with accepted := satInc s.fh.accepted } ∧ t.du = s.du ∧ t.ol = s.ol
          ∧ (¬OverheardRelay h tr (sl.used.toNat + 1) (distanceAfter s h tr q sl.dest) → t.ms = s.ms)
          ∧ (OverheardRelay h tr (sl.used.toNat + 1) (distanceAfter s h tr q sl.dest) →
              ∀ heard down, heard = addHeard sl.heard h.sender →
              (down ↔ (sl.state = .held ∨ (sl.state = .queued ∧ sl.resumeAt = 0 ∧ sl.deliverHere = false))
                ∧ (s.ol.classes.get sl.cls).redundancy ≤ heard.length) →
              (¬down → look t.ms.slots i = some { sl with heard := heard } ∧ t.ms.free = s.ms.free
                  ∧ t.idt.entry tr.id = some { e with age := 0 })
                ∧ (down → sl.deliverHere = true ∧ sl.unread = true → look t.ms.slots i = some { sl with
                    heard := heard, state := .inbox, deadline := none, sentDist := none } ∧ t.ms.free = s.ms.free)
                ∧ (down → ¬(sl.deliverHere = true ∧ sl.unread = true) → look t.ms.slots i = none
                    ∧ t.ms.free = s.ms.free ++ sl.attached
                    ∧ t.idt.entry tr.id = some { e with disposition := .relayed, link := none, age := 0 }))))
    ∧ (∀ (l : List Code) (c : Code), addHeard l c = if c ∈ l ∨ 3 ≤ l.length then l else l ++ [c])
    ∧ ∀ (s : State) (h : Header) (tr : Traffic) (q : Nibble) (e : Entry) (cls : MsgClass) (own : Code),
        AcceptsTraffic s h tr q → s.idt.entry tr.id = some e → e.disposition = .delivered → s.ol.ownCode = some own →
        (e.link = none ∧ cls = .ofBits tr.cls ∨ ∃ i sl, e.link = some i ∧ look s.ms.slots i = some sl ∧ sl.state = .inbox ∧ cls = sl.cls) →
        ∃ t, exec .frameTaken s = .next t ∧ t.ms = s.ms ∧ t.ac.queues = s.ac.queues
          ∧ (tr.index.toNat + 1 = tr.count ∧ (∃ r, e.receiptTime = some r ∧ r + s.ol.settings.echo * 1000 ≤ s.now)
                ∧ (∀ x ∈ s.du.pool, x.id ≠ tr.id) →
              ReceiptAsked s t tr.id cls own s.ol ∧ t.idt.entry tr.id = some { e with receiptTime := some s.now, age := 0 })
          ∧ (¬(tr.index.toNat + 1 = tr.count ∧ (∃ r, e.receiptTime = some r ∧ r + s.ol.settings.echo * 1000 ≤ s.now))
                ∨ (∃ x ∈ s.du.pool, x.id = tr.id) →
              t.du = s.du ∧ t.fh = { s.fh with accepted := satInc s.fh.accepted } ∧ t.ol = s.ol
                ∧ t.idt.entry tr.id = some { e with age := 0 })

/-! ## Monitor -/

/-- WINDOW_END: the history shifts, CHECK-STORM follows the record and STUCK-CARRIER the run, a fault that rises is held, noticed and requests a restart as its selects say, u is recomputed unless frozen, and the next window starts at the end of this one, its carrier throughout as DCD then is; AC evaluates. A WINDOW_END before its moment brings the clock to it: the model's reading (n2) (R51, R52, R54 to R57, R59, R60, R63, R137). -/
def Obligations.WindowEndUpdatesTheFigures : Prop :=
  (∀ (s : State) (w : Window), s.ofm.window = some w → s.now < w.endsAt → 0 < s.ol.settings.window →
      exec .windowEnd s = exec .windowEnd (advance w.endsAt s))
  ∧ ∀ (s : State) (w : Window) (storm stuck : Bool), s.MonitorSound → s.ofm.window = some w → w.endsAt = s.now →
    storm = decide (4 ≤ w.frames ∧ w.frames < w.failed * 2) →
    stuck = decide ((if w.throughout && !w.accepted then min 8 (s.ofm.stuckRun + 1) else 0) = 8) →
    ∃ t, exec .windowEnd s = .next t
      ∧ t.ofm.history = s.ofm.history.drop 1 ++ [⟨w.carrierMs, w.frames, w.failed⟩]
      ∧ t.ofm.window = some ⟨0, 0, 0, s.pins.dcd, false, s.now + s.ol.settings.window⟩
      ∧ t.ofm.faults.checkStorm = { s.ofm.faults.checkStorm with live := storm, held := s.ofm.faults.checkStorm.held || storm }
      ∧ t.ofm.stuckRun = (if w.throughout && !w.accepted then min 8 (s.ofm.stuckRun + 1) else 0)
      ∧ t.ofm.faults.stuckCarrier = { s.ofm.faults.stuckCarrier with
          live := s.ofm.faults.stuckCarrier.live || stuck, held := s.ofm.faults.stuckCarrier.held || stuck }
      ∧ t.ofm.requests = s.ofm.requests
          + (if storm && !s.ofm.faults.checkStorm.held && s.ofm.faults.checkStorm.restart then 1 else 0)
          + (if stuck && !s.ofm.faults.stuckCarrier.held && s.ofm.faults.stuckCarrier.restart then 1 else 0)
      ∧ t.ol = { s.ol with notices := { s.ol.notices with fault := s.ol.notices.fault
          || (storm && !s.ofm.faults.checkStorm.held && s.ofm.faults.checkStorm.notify)
          || (stuck && !s.ofm.faults.stuckCarrier.held && s.ofm.faults.stuckCarrier.notify) } }
      ∧ t.ofm.u = (if t.frozen then s.ofm.u
          else 100 * (t.ofm.history.map HistoryRecord.carrierMs).sum / (16 * s.ol.settings.window))
      ∧ t.ofm.faults.txTimeout = s.ofm.faults.txTimeout ∧ t.ofm.faults.clockLoss = s.ofm.faults.clockLoss
      ∧ t.now = s.now ∧ t.pins = s.pins ∧ t.ac = evaluatedAc (t.withAc s.ac)
      ∧ t.mp = s.mp ∧ t.ms = s.ms ∧ t.dt = s.dt ∧ t.idt = s.idt ∧ t.du = s.du ∧ t.fh = s.fh

/-- The clock watches. A loss sets its condition, and CLOCK-LOSS live and held, if it is not live already. Every edge of RXC in LIVE under DCD, rising or falling, restarts the receive watch, and every edge of TXC under PTT the transmit watch; a falling edge of TXC then drives its bit. An edge that ends one of two conditions leaves CLOCK-LOSS live; one that ends the last clears the live flag and leaves the held one; AC evaluates when a loss ended. A falling edge of RXC and a rising one of TXC with no loss restart their watch and change nothing else, and a rising edge of RXC with none leaves AC and the Monitor as they were. Without DCD an edge of RXC has no effect (R32, R46, R47, R57, R62, R137). That the two clock rows stand for any edge is the model's choice (n4). -/
def Obligations.ClockConditionsDriveClockLoss : Prop :=
  (∀ (s : State) (t₀ : Nat), s.ol.phase = .live → s.pins.dcd = true → s.mp.rxWatch = some t₀ → t₀ + 20 ≤ s.now →
      s.ofm.rxLoss = false →
      ∃ t, exec .receiveClockLoss s = .next t ∧ t.ofm.rxLoss = true ∧ t.ofm.txLoss = s.ofm.txLoss ∧ t.mp = s.mp
        ∧ (s.ofm.faults.clockLoss.live = true → t.ofm.faults = s.ofm.faults ∧ t.ofm.requests = s.ofm.requests)
        ∧ (s.ofm.faults.clockLoss.live = false →
            t.ofm.faults.clockLoss = { s.ofm.faults.clockLoss with live := true, held := true }
            ∧ t.ofm.requests = s.ofm.requests
                + (if s.ofm.faults.clockLoss.held = false ∧ s.ofm.faults.clockLoss.restart = true then 1 else 0)))
    ∧ (∀ (s : State) (t₀ : Nat), s.mp.key ≠ .unkeyed → s.mp.txWatch = some t₀ → t₀ + 20 ≤ s.now → s.ofm.txLoss = false →
        ∃ t, exec .transmitClockLoss s = .next t ∧ t.ofm.txLoss = true ∧ t.ofm.rxLoss = s.ofm.rxLoss ∧ t.mp = s.mp
          ∧ (s.ofm.faults.clockLoss.live = true → t.ofm.faults = s.ofm.faults ∧ t.ofm.requests = s.ofm.requests)
          ∧ (s.ofm.faults.clockLoss.live = false →
              t.ofm.faults.clockLoss = { s.ofm.faults.clockLoss with live := true, held := true }
              ∧ t.ofm.requests = s.ofm.requests
                  + (if s.ofm.faults.clockLoss.held = false ∧ s.ofm.faults.clockLoss.restart = true then 1 else 0)))
    ∧ (∀ s : State, s.MonitorSound → s.ol.phase = .live → s.pins.dcd = true →
        ∃ t, exec (.receiveClockResumes .falling) s = .next t ∧ t.mp = { s.mp with rxWatch := some s.now } ∧ t.fh = s.fh
          ∧ LossEnds s t false s.ofm.txLoss
          ∧ (s.ofm.rxLoss = false → t = s.withMp { s.mp with rxWatch := some s.now })
          ∧ ∀ b q, ∃ u, exec (.receiveClockResumes (.rising b q)) s = .next u ∧ u.mp.rxWatch = some s.now
              ∧ LossEnds s u false s.ofm.txLoss)
    ∧ (∀ s : State, s.MonitorSound → s.mp.key ≠ .unkeyed →
        ∃ t, exec (.transmitClockResumes .rising) s = .next t ∧ t.mp = { s.mp with txWatch := some s.now } ∧ t.fh = s.fh
          ∧ LossEnds s t s.ofm.rxLoss false
          ∧ (s.ofm.txLoss = false → t = s.withMp { s.mp with txWatch := some s.now })
          ∧ exec (.transmitClockResumes .falling) s = exec (.transmitClockResumes .falling) t)
    ∧ ∀ s : State, s.pins.dcd = false → exec (.receiveClockResumes .falling) s = .next s
        ∧ ∀ b q, exec (.receiveClockResumes (.rising b q)) s = .next s

/-! ## Deadlines and timers -/

/-- ASSEMBLY_DEADLINE_EXPIRY frees the slot with DROPPED, uncounted; RELAY_DEADLINE_EXPIRY queues it at the tail with its heard-from set; ECHO_DEADLINE_EXPIRY spends a retry and queues the slot again; an originated slot without one goes FREE with FAILED, its outcome and notice; a relay-only one, and a bulletin already read, goes FREE with RELAYED, and a bulletin still unread moves to INBOX; an expiry that finds the slot FREE, in another state or without a deadline has no effect (R68, R82, R124, R136, R154, R157). -/
def Obligations.SlotDeadlinesExpire : Prop :=
  (∀ (s : State) (i : Fin 64) (sl : Slot) (t₀ : Nat), look s.ms.slots i = some sl → sl.deadline = some t₀ → t₀ ≤ s.now →
      (sl.state = .assembling → exec (.assemblyDeadlineExpiry i) s = .next (freeSlot i .dropped s))
        ∧ (sl.state = .held → ∃ t, exec (.relayDeadlineExpiry i) s = .next t
            ∧ look t.ms.slots i = some { sl with state := .queued, resumeAt := 0, deadline := none, sentDist := none }
            ∧ (∀ j, j ≠ i → look t.ms.slots j = look s.ms.slots j)
            ∧ t.ac.queues = joinTail s.ac.queues sl.cls i ∧ (t.withMs s.ms).withAc s.ac = s))
    ∧ (∀ (s : State) (i : Fin 64),
        ((∀ sl, look s.ms.slots i = some sl → sl.state = .assembling → sl.deadline = none) →
            exec (.assemblyDeadlineExpiry i) s = .next s)
          ∧ ((∀ sl, look s.ms.slots i = some sl → sl.state = .held → sl.deadline = none) →
            exec (.relayDeadlineExpiry i) s = .next s)
          ∧ ((∀ sl, look s.ms.slots i = some sl → sl.state = .await → sl.deadline = none) →
            exec (.echoDeadlineExpiry i) s = .next s))
    ∧ ∀ (s : State) (i : Fin 64) (sl : Slot) (t₀ : Nat), look s.ms.slots i = some sl → sl.state = .await → sl.deadline = some t₀ →
        t₀ ≤ s.now →
        (sl.retries ≠ 0 → ∃ t, exec (.echoDeadlineExpiry i) s = .next t
            ∧ look t.ms.slots i = some { sl with
                state := .queued, resumeAt := 0, deadline := none, sentDist := none, retries := sl.retries - 1 }
            ∧ t.ac.queues = joinTail s.ac.queues sl.cls i ∧ t.du = s.du ∧ t.ol = s.ol)
          ∧ (sl.retries = 0 → sl.originated = true → ∃ t, exec (.echoDeadlineExpiry i) s = .next t
              ∧ t.ms = s.ms.release i ∧ t.idt = s.idt.unlink sl.id .failed
              ∧ t.du.outcomes = (if s.du.outcomes.length < 16 then s.du.outcomes else s.du.outcomes.drop 1) ++ [⟨sl.id, .failed⟩]
              ∧ t.ol = { s.ol with notices := { s.ol.notices with failed := true } })
          ∧ (sl.retries = 0 → sl.originated = false → ¬(sl.deliverHere = true ∧ sl.unread = true) →
              exec (.echoDeadlineExpiry i) s = .next (freeSlot i .relayed s))
          ∧ (sl.retries = 0 → sl.originated = false → sl.deliverHere = true → sl.unread = true →
              exec (.echoDeadlineExpiry i) s = .next (s.withMs (s.ms.modSlot i fun x => { x with
                state := .inbox, deadline := none, sentDist := none })))

/-- RECEIPT_DEADLINE_EXPIRY makes a WAITING record READY, and no other; one that is gone, or READY already, has no effect. The IDENT timer sets ident-due, the BEACON timer both flags, the listening period's end lifts its bar; each timer stops (R132, R147, R149). -/
def Obligations.ReceiptAndAccessTimersExpire : Prop :=
  ((∀ (s : State) (r : Receipt) (t₀ : Nat), s.du.pool.find? (fun x => x.id == r.id) = some r → r.state = .waiting t₀ → t₀ ≤ s.now →
        ∃ t, exec (.receiptDeadlineExpiry r.id) s = .next t
          ∧ t.du = { s.du with pool := s.du.pool.map fun x => if x.id = r.id then { x with state := .ready s.now } else x }
          ∧ (t.withDu s.du).withAc s.ac = s)
      ∧ ∀ (s : State) (id : Identity), (∀ x ∈ s.du.pool, x.id = id → ∃ t, x.state = .ready t) →
          exec (.receiptDeadlineExpiry id) s = .next s)
    ∧ ∀ (s : State) (t₀ : Nat), t₀ ≤ s.now →
        (s.ac.identTimer = some t₀ →
            exec .identTimerExpiry s = .next (s.withAc { s.ac with identDue := true, identTimer := none }))
          ∧ (s.ac.beaconTimer = some t₀ →
              exec .beaconTimerExpiry s =
                .next (evaluate (s.withAc { s.ac with identDue := true, beaconDue := true, beaconTimer := none })))
          ∧ (s.ac.listenEnd = some t₀ →
              exec .listeningPeriodEnd s = .next (evaluate (s.withAc { s.ac with listenEnd := none })))

/-! ## Tables -/

/-- The bucket of an identity is the low 9 bits of n XOR (o times 16), for every lookup and insert; serials of one origin share a bucket exactly when they agree in their low 9 bits, origins for one serial exactly when they agree in their low 5 bits (R92). -/
def Obligations.BucketIsLowNineBits : Prop :=
  (∀ (o : Code) (n : Serial), (bucketOf ⟨o, n⟩).val = (n.toNat ^^^ (o.toNat * 16)) % 512)
    ∧ (∀ (o : Code) (n m : Serial), bucketOf ⟨o, n⟩ = bucketOf ⟨o, m⟩ ↔ n.toNat % 512 = m.toNat % 512)
    ∧ (∀ (o p : Code) (n : Serial), bucketOf ⟨o, n⟩ = bucketOf ⟨p, n⟩ ↔ o.toNat % 32 = p.toNat % 32)
    ∧ (∀ (t : IdTable) (i : Identity), t.find i = (t.spots (bucketOf i)).find? (t.holds i))
    ∧ ∀ (t t' : IdTable) (i : Identity) (d : Disposition) (b : Bool), t.insert i d b = .inserted t' →
        ∀ k, k ≠ bucketOf i → look t'.buckets k = look t.buckets k

/-- The minute event of the Identity Table starts a sweep at bucket 0 or leaves one waiting; each visit ages the unfresh entries of the next bucket, A, B and the chain, and removes unlinked ones at IDLIFE: a primary becomes invalid, an overflow entry leaves its chain for the tail of the free list; the completion clears every fresh mark and starts a waiting sweep. An insert takes primary A, then B, then the head of the free list at the head of the chain, and with none the oldest unlinked entry of the bucket, the first in lookup order among equals; it fails when all are linked, and finds an identity held already (R94 to R97, R100, R101). -/
def Obligations.SweepAgesAndRemoves : Prop :=
  (∀ (s : State) (b : Fin 512), s.idt.sweep = some b.val →
      exec .sweepVisit s = .next (s.withIdt { s.idt.visit s.ol.settings.idlife b with sweep := some (b.val + 1) }))
    ∧ (∀ (s : State) (t₀ : Nat), s.idt.minuteAt = some t₀ → t₀ ≤ s.now →
      exec .identityTableMinuteEvent s = .next (s.withIdt { s.idt with
        minuteAt := some (t₀ + 60000)
        sweep := some (s.idt.sweep.getD 0)
        waiting := s.idt.sweep.isSome }))
    ∧ (∀ (s : State) (b : Fin 512) (chain : List (Fin 256)), s.idt.sweep = some b.val → s.idt.chain b = chain → chain.Nodup →
        (∀ x, chain.getLast? = some x → (look s.idt.overflow x).next = none) →
        (∀ x ∈ chain, (look s.idt.overflow x).entry ≠ none) →
        ∃ t, exec .sweepVisit s = .next t ∧ t.withIdt s.idt = s ∧ t.idt.sweep = some (b.val + 1)
          ∧ (look t.idt.buckets b).primA = (look s.idt.buckets b).primA.bind (Entry.swept s.ol.settings.idlife)
          ∧ (look t.idt.buckets b).primB = (look s.idt.buckets b).primB.bind (Entry.swept s.ol.settings.idlife)
          ∧ (∀ x ∈ chain, (look t.idt.overflow x).entry = (look s.idt.overflow x).entry.bind (Entry.swept s.ol.settings.idlife))
          ∧ t.idt.chain b = chain.filter (fun x => (look t.idt.overflow x).entry.isSome)
          ∧ t.idt.free = s.idt.free ++ chain.filter (fun x => (look t.idt.overflow x).entry.isNone)
          ∧ (∀ k, k ≠ b → look t.idt.buckets k = look s.idt.buckets k)
          ∧ ∀ x, x ∉ chain → look t.idt.overflow x = look s.idt.overflow x)
    ∧ (∀ (life : Nat) (e : Entry), e.swept life = if e.fresh then some e
        else if life ≤ min 255 (e.age + 1) ∧ e.link = none then none else some { e with age := min 255 (e.age + 1) })
    ∧ (∀ (s : State) (b : Nat), s.idt.sweep = some b → 512 ≤ b →
        ∃ t, exec .sweepCompletes s = .next t ∧ t.withIdt s.idt = s
          ∧ t.idt.sweep = (if s.idt.waiting then some 0 else none) ∧ t.idt.waiting = false
          ∧ (∀ p, t.idt.at p = (s.idt.at p).map fun e => { e with fresh := false })
          ∧ (∀ b, (look t.idt.buckets b).head = (look s.idt.buckets b).head)
          ∧ (∀ x, (look t.idt.overflow x).next = (look s.idt.overflow x).next)
          ∧ t.idt.free = s.idt.free ∧ t.idt.minuteAt = s.idt.minuteAt)
    ∧ (∀ (t : IdTable) (i : Identity) (d : Disposition) (o : Bool) (p : Spot), t.find i = some p →
        t.insert i d o = .found (t.put p ((t.at p).map fun e => { e with age := 0 })))
    ∧ ∀ (t : IdTable) (i : Identity) (d : Disposition) (o : Bool) (b : Fin 512) (new : Entry), t.find i = none → b = bucketOf i →
        new = ⟨i, d, none, 0, t.sweep.isSome, o, none, false⟩ →
        ((look t.buckets b).primA = none → t.insert i d o = .inserted (t.put (.primA b) (some new)))
          ∧ ((look t.buckets b).primA ≠ none → (look t.buckets b).primB = none →
              t.insert i d o = .inserted (t.put (.primB b) (some new)))
          ∧ ((look t.buckets b).primA ≠ none → (look t.buckets b).primB ≠ none →
            (∀ x rest, t.free = x :: rest → t.insert i d o = .inserted { t with
                overflow := place t.overflow x ⟨some new, (look t.buckets b).head⟩
                buckets := place t.buckets b { look t.buckets b with head := some x }
                free := rest })
              ∧ (t.free = [] → (∀ p ∈ t.spots b, ∀ e, t.at p = some e → e.link ≠ none) → t.insert i d o = .failed)
              ∧ ∀ (l r : List Spot) (p : Spot) (old : Entry), t.free = [] → t.spots b = l ++ p :: r → t.at p = some old →
                  old.link = none → (∀ q ∈ l, ∀ e, t.at q = some e → e.link = none → e.age < old.age) →
                  (∀ q ∈ r, ∀ e, t.at q = some e → e.link = none → e.age ≤ old.age) →
                  t.insert i d o = .inserted (t.put p (some new)))

/-- The Distance Table's minute event starts a pass over the codes present, in ascending order, or leaves one waiting; a visit takes the next code of the pass, ages its entry, and removes it at ROUTELIFE unless it is pinned or fresh, recomputing own tier then; an entry that is removed during the pass leaves it, and one made during the pass is not in it, even for a code that was; the completion, with none left, clears every fresh mark and starts a waiting pass (R109, R111, R113). -/
def Obligations.AgingPassAgesAndRemoves : Prop :=
  (∀ (s : State) (t₀ : Nat), s.dt.minuteAt = some t₀ → t₀ ≤ s.now →
      exec .distanceTableMinuteEvent s = .next (s.withDt { s.dt with
        minuteAt := some (t₀ + 60000)
        pass := some (s.dt.pass.getD s.dt.codes)
        waiting := s.dt.pass.isSome }))
    ∧ (∀ t : DistTable, t.codes.Perm (t.singles.map Single.code) ∧ t.codes.Pairwise (fun a b => a.toNat ≤ b.toNat))
    ∧ (∀ (s : State) (c : Code) (rest : List Code) (e : Single), s.dt.pass = some (c :: rest) → s.dt.single c = some e →
        s.dt.Fits →
        ∃ t, exec .agingPassVisit s = .next t ∧ t.withDt s.dt = s ∧ t.dt.pass = some rest
          ∧ t.dt.single c = (if e.fresh then some e
              else if s.ol.settings.routelife ≤ min 255 (e.age + 1) ∧ e.pinned = false then none
              else some { e with age := min 255 (e.age + 1) })
          ∧ (∀ k, k ≠ c → t.dt.single k = s.dt.single k)
          ∧ t.dt.ownTier = (if t.dt.single c = none then computeTier s.ol.centre t.dt.singles else s.dt.ownTier))
    ∧ (∀ (t u : DistTable) (centre : Bool) (life : Nat) (x : Single) (pass : List Code), u = t.learn centre life x →
        t.single x.code = none → t.pass = some pass →
        u.pass = some (pass.filter fun c => u.singles.tail.any fun e => e.code == c) ∧ ∀ e ∈ u.singles.tail, e.code ≠ x.code)
    ∧ (∀ (t : DistTable) (centre : Bool) (pass : List Code), t.pass = some pass →
        (t.purge centre).pass = some (pass.filter fun c => t.singles.any fun e => e.pinned && e.code == c))
    ∧ (∀ (s : State) (c : Code) (rest : List Code), s.dt.pass = some (c :: rest) → exec .agingPassCompletes s = .next s)
    ∧ ∀ s : State, s.dt.pass = some [] →
        ∃ t, exec .agingPassCompletes s = .next t ∧ t.withDt s.dt = s
          ∧ t.dt.singles = s.dt.singles.map (fun e => { e with fresh := false })
          ∧ t.dt.pass = (if s.dt.waiting then some t.dt.codes else none) ∧ t.dt.waiting = false

/-! ## Contention -/

/-- The contention count by its six stages; it lies in 0-63; a candidate's is computed from its class, its q, its progress, u as the Monitor holds it, the own code and its serial (R122). -/
def Obligations.ContentionCountFollowsItsStages : Prop :=
  (∀ (p : MsgClass) (q : Nibble) (g : Option Int) (u : Nat) (c : Code) (n : Serial),
      ∃ B Q G S0 S1 X : Nat,
        B = (match p with
          | .life => 0
          | .urgent => 4
          | .welfare => 10
          | .routine => 16)
        ∧ Q = q.toNat / 2
        ∧ (g = none → G = 12) ∧ (∀ d : Int, g = some d → (G : Int) = max 0 (12 - 3 * d))
        ∧ S0 = B + Q + G ∧ S1 = S0 * (100 + u) / 100 ∧ X = (c.toNat ^^^ n.toNat ^^^ n.toNat / 256) % 8
        ∧ contentionCount p q g u c n = min 63 (S1 + X) ∧ contentionCount p q g u c n ≤ 63)
    ∧ ∀ (d : Decision) (s : State) (c : Code), s.ol.ownCode = some c →
        (decideRelay d s).1 =
          if candidate d (askDistance d.dest s).1 (askDistance d.dest s).2 = true
          then some (contentionCount d.cls d.q (progress d.dist (askDistance d.dest s).1) s.ofm.u c d.serial) else none

/-! ## Frames -/

/-- A TRAFFIC, RECEIPT or BEACON frame built from well-formed fields is read back with every field, passes its check and is accepted by a station of another code; a frame whose check has a bit changed is refused; and a frame is malformed exactly when it meets one of the conditions of Table 2-6 (R14 to R17, R23 to R26). -/
def Obligations.ComposedFramesAreAccepted : Prop :=
  (∀ (h : Header) (t : Traffic) (own : Option Code), h.kind = 1 → notIndividual h.sender = false →
      notIndividual t.origin = false → t.dest ≠ 0 → t.budget ≠ 0 → 1 ≤ t.bodyLength.toNat → t.bodyLength.toNat ≤ 512 →
      t.count = segments t.bodyLength.toNat → t.index.toNat < t.count →
      t.data.length = segmentSize t.bodyLength.toNat t.count t.index.toNat → own ≠ some h.sender →
      parseHeader (frameBytes h (trafficBytes t)) = h
        ∧ payload (frameBytes h (trafficBytes t)) = trafficBytes t
        ∧ parseTraffic (trafficBytes t) = t
        ∧ frameBytesOk (frameBytes h (trafficBytes t)) = true
        ∧ validate own (frameBytes h (trafficBytes t)) = .accepted)
    ∧ (∀ (h : Header) (r : ReceiptFrame) (own : Option Code), h.kind = 2 → notIndividual h.sender = false →
        notIndividual r.origin = false → notIndividual r.deliverer = false → r.budget ≠ 0 → own ≠ some h.sender →
        parseHeader (frameBytes h (receiptBytes r)) = h ∧ payload (frameBytes h (receiptBytes r)) = receiptBytes r
          ∧ parseReceipt (receiptBytes r) = r ∧ frameBytesOk (frameBytes h (receiptBytes r)) = true
          ∧ validate own (frameBytes h (receiptBytes r)) = .accepted)
    ∧ (∀ (h : Header) (call : Text) (own : Option Code), h.kind = 3 → notIndividual h.sender = false → 3 ≤ call.length →
        call.length ≤ 10 → (∀ c ∈ call, callByte c = true) → own ≠ some h.sender →
        parseHeader (frameBytes h call) = h ∧ payload (frameBytes h call) = call
          ∧ frameBytesOk (frameBytes h call) = true ∧ validate own (frameBytes h call) = .accepted)
    ∧ (∀ (h : Header) (p : List Byte) (own : Option Code) (k : BitVec 16), p.length ≤ 73 → k ≠ 0 →
        validate own (headerBytes h (BitVec.ofNat 8 p.length) ++ p
          ++ wordBytes (crc (headerBytes h (BitVec.ofNat 8 p.length) ++ p) ^^^ k)) = .checkfail)
    ∧ ∀ (bytes : List Byte) (h : Header) (len : Nat) (t : Traffic) (r : ReceiptFrame), parseHeader bytes = h →
        payloadLength bytes = len → parseTraffic (payload bytes) = t → parseReceipt (payload bytes) = r →
        (malformed bytes = true ↔
          (h.sender = 0 ∨ h.sender = 4094 ∨ h.sender = 4095)
            ∨ (h.kind ≠ 1 ∧ h.kind ≠ 2 ∧ h.kind ≠ 3)
            ∨ (h.kind = 1 ∧ (len < 10 ∨ 73 < len ∨ t.origin = 0 ∨ t.origin = 4094 ∨ t.origin = 4095 ∨ t.dest = 0 ∨ t.budget = 0
                ∨ t.bodyLength = 0 ∨ t.count ≠ (t.bodyLength.toNat + 63) / 64 ∨ t.count ≤ t.index.toNat
                ∨ len - 9 ≠ if t.index.toNat + 1 < t.count then 64 else t.bodyLength.toNat - 64 * (t.count - 1)))
            ∨ (h.kind = 2 ∧ (len ≠ 7 ∨ r.origin = 0 ∨ r.origin = 4094 ∨ r.origin = 4095
                ∨ r.deliverer = 0 ∨ r.deliverer = 4094 ∨ r.deliverer = 4095 ∨ r.budget = 0))
            ∨ (h.kind = 3 ∧ (len < 3 ∨ 10 < len ∨ ∃ c ∈ payload bytes, ¬((0x41 ≤ c.toNat ∧ c.toNat ≤ 0x5A)
                ∨ (0x30 ≤ c.toNat ∧ c.toNat ≤ 0x39) ∨ c = 0x2F))))

/-! ## Invariants -/

/-- The reset state has every invariant below. -/
def Obligations.InvariantsHoldAtReset : Prop :=
  State.reset.ol.Fits ∧ State.reset.ol.Legal ∧ State.reset.PortAgrees ∧ State.reset.ac.Sound ∧ State.reset.SeededInLive
    ∧ State.reset.MonitorSound ∧ State.reset.dt.Fits ∧ State.reset.du.Fits ∧ State.reset.ms.Conserved ∧ State.reset.Linked

/-- Every step keeps the operator line's buffers within their sizes and its settings, code and callsign legal (11.1, R1, R2, R7, R11, R168, R169, R171). -/
def Obligations.StepKeepsOperatorLine : Prop :=
  ∀ s t : State, s.ol.Fits → s.ol.Legal → step s = .next t → t.ol.Fits ∧ t.ol.Legal

/-- Every step keeps PTT, receiver, TXD, time limit and access state in agreement, the access delay in COUNTING alone, and the generator seeded in LIVE alone and never 0 (R32, R34, R42, R45, R137, R140, R141). -/
def Obligations.StepKeepsPortAndAccess : Prop :=
  ∀ s t : State, s.ol.Legal → s.PortAgrees → s.ac.Sound → s.SeededInLive → step s = .next t →
    t.PortAgrees ∧ t.ac.Sound ∧ t.SeededInLive

/-- Every step keeps the Monitor's history at 16 records, its figures in range, u in 0-100, every live fault held, and the clock not past the end of the window under way (R51 to R57, R60). -/
def Obligations.StepKeepsMonitor : Prop :=
  ∀ s t : State, s.ol.Legal → s.MonitorSound → step s = .next t → t.MonitorSound

/-- Every step keeps at most 48 single entries, of distinct codes, at most 8 of them pinned (R105, R109, R112). -/
def Obligations.StepKeepsDistanceTable : Prop :=
  ∀ s t : State, s.dt.Fits → step s = .next t → t.dt.Fits

/-- Every step keeps at most 16 receipt records, no two of one identity, at most 16 outcomes, and a serial counter other than 0 (R5, R164, R165). -/
def Obligations.StepKeepsDeliveryUnit : Prop :=
  ∀ s t : State, s.du.Fits → step s = .next t → t.du.Fits

/-- Every step keeps every segment block either attached to one slot or free, once (R70). -/
def Obligations.StepConservesBlocks : Prop :=
  ∀ s t : State, s.ms.Conserved → step s = .next t → t.ms.Conserved

/-- Every step keeps the Identity Table sound (each entry in its bucket, no identity twice, each overflow entry on one chain or free), the slots and the entries linked to each other one to one, each class queue the QUEUED slots of its class, each once, each slot's deadline, sent distance, segments and heard-from set as its state asks, and at most one slot ON-AIR (R68, R76, R81, R90, R92, R95, R97, R98, R101, R126, R136, R142). -/
def Obligations.StepKeepsTableQueuesAndLinks : Prop :=
  ∀ s t : State, s.Linked → step s = .next t → t.Linked
end

