-- ==== Sys2Proof/Laws/State.lean ====
section
/-! SUPPORT. One lemma per field per update of State, true by rfl. -/

namespace Sys2Proof.Machine

variable (s : State)

/-! ### withNow -/

@[simp] theorem withNow_now (t : Nat) : (s.withNow t).now = t := rfl
@[simp] theorem withNow_pins (t : Nat) : (s.withNow t).pins = s.pins := rfl
@[simp] theorem withNow_mp (t : Nat) : (s.withNow t).mp = s.mp := rfl
@[simp] theorem withNow_ofm (t : Nat) : (s.withNow t).ofm = s.ofm := rfl
@[simp] theorem withNow_fh (t : Nat) : (s.withNow t).fh = s.fh := rfl
@[simp] theorem withNow_ms (t : Nat) : (s.withNow t).ms = s.ms := rfl
@[simp] theorem withNow_idt (t : Nat) : (s.withNow t).idt = s.idt := rfl
@[simp] theorem withNow_dt (t : Nat) : (s.withNow t).dt = s.dt := rfl
@[simp] theorem withNow_ac (t : Nat) : (s.withNow t).ac = s.ac := rfl
@[simp] theorem withNow_du (t : Nat) : (s.withNow t).du = s.du := rfl
@[simp] theorem withNow_ol (t : Nat) : (s.withNow t).ol = s.ol := rfl
@[simp] theorem withNow_pending (t : Nat) : (s.withNow t).pending = s.pending := rfl
@[simp] theorem withNow_again (t y : Nat) : (s.withNow t).withNow y = s.withNow y := rfl
@[simp] theorem withNow_self : s.withNow s.now = s := rfl
@[simp] theorem withNow_ptt (t : Nat) : (s.withNow t).ptt = s.ptt := rfl
@[simp] theorem withNow_isLive (t : Nat) : (s.withNow t).isLive = s.isLive := rfl

/-! ### withPins -/

@[simp] theorem withPins_now (x : Pins) : (s.withPins x).now = s.now := rfl
@[simp] theorem withPins_pins (x : Pins) : (s.withPins x).pins = x := rfl
@[simp] theorem withPins_mp (x : Pins) : (s.withPins x).mp = s.mp := rfl
@[simp] theorem withPins_ofm (x : Pins) : (s.withPins x).ofm = s.ofm := rfl
@[simp] theorem withPins_fh (x : Pins) : (s.withPins x).fh = s.fh := rfl
@[simp] theorem withPins_ms (x : Pins) : (s.withPins x).ms = s.ms := rfl
@[simp] theorem withPins_idt (x : Pins) : (s.withPins x).idt = s.idt := rfl
@[simp] theorem withPins_dt (x : Pins) : (s.withPins x).dt = s.dt := rfl
@[simp] theorem withPins_ac (x : Pins) : (s.withPins x).ac = s.ac := rfl
@[simp] theorem withPins_du (x : Pins) : (s.withPins x).du = s.du := rfl
@[simp] theorem withPins_ol (x : Pins) : (s.withPins x).ol = s.ol := rfl
@[simp] theorem withPins_pending (x : Pins) : (s.withPins x).pending = s.pending := rfl
@[simp] theorem withPins_again (x y : Pins) : (s.withPins x).withPins y = s.withPins y := rfl
@[simp] theorem withPins_self : s.withPins s.pins = s := rfl
@[simp] theorem withPins_ptt (x : Pins) : (s.withPins x).ptt = s.ptt := rfl
@[simp] theorem withPins_isLive (x : Pins) : (s.withPins x).isLive = s.isLive := rfl

/-! ### withMp -/

@[simp] theorem withMp_now (x : ModemPort) : (s.withMp x).now = s.now := rfl
@[simp] theorem withMp_pins (x : ModemPort) : (s.withMp x).pins = s.pins := rfl
@[simp] theorem withMp_mp (x : ModemPort) : (s.withMp x).mp = x := rfl
@[simp] theorem withMp_ofm (x : ModemPort) : (s.withMp x).ofm = s.ofm := rfl
@[simp] theorem withMp_fh (x : ModemPort) : (s.withMp x).fh = s.fh := rfl
@[simp] theorem withMp_ms (x : ModemPort) : (s.withMp x).ms = s.ms := rfl
@[simp] theorem withMp_idt (x : ModemPort) : (s.withMp x).idt = s.idt := rfl
@[simp] theorem withMp_dt (x : ModemPort) : (s.withMp x).dt = s.dt := rfl
@[simp] theorem withMp_ac (x : ModemPort) : (s.withMp x).ac = s.ac := rfl
@[simp] theorem withMp_du (x : ModemPort) : (s.withMp x).du = s.du := rfl
@[simp] theorem withMp_ol (x : ModemPort) : (s.withMp x).ol = s.ol := rfl
@[simp] theorem withMp_pending (x : ModemPort) : (s.withMp x).pending = s.pending := rfl
@[simp] theorem withMp_again (x y : ModemPort) : (s.withMp x).withMp y = s.withMp y := rfl
@[simp] theorem withMp_self : s.withMp s.mp = s := rfl
@[simp] theorem withMp_ptt (x : ModemPort) : (s.withMp x).ptt = decide (x.key ≠ .unkeyed) := rfl
@[simp] theorem withMp_isLive (x : ModemPort) : (s.withMp x).isLive = s.isLive := rfl

/-! ### withOfm -/

@[simp] theorem withOfm_now (x : Monitor) : (s.withOfm x).now = s.now := rfl
@[simp] theorem withOfm_pins (x : Monitor) : (s.withOfm x).pins = s.pins := rfl
@[simp] theorem withOfm_mp (x : Monitor) : (s.withOfm x).mp = s.mp := rfl
@[simp] theorem withOfm_ofm (x : Monitor) : (s.withOfm x).ofm = x := rfl
@[simp] theorem withOfm_fh (x : Monitor) : (s.withOfm x).fh = s.fh := rfl
@[simp] theorem withOfm_ms (x : Monitor) : (s.withOfm x).ms = s.ms := rfl
@[simp] theorem withOfm_idt (x : Monitor) : (s.withOfm x).idt = s.idt := rfl
@[simp] theorem withOfm_dt (x : Monitor) : (s.withOfm x).dt = s.dt := rfl
@[simp] theorem withOfm_ac (x : Monitor) : (s.withOfm x).ac = s.ac := rfl
@[simp] theorem withOfm_du (x : Monitor) : (s.withOfm x).du = s.du := rfl
@[simp] theorem withOfm_ol (x : Monitor) : (s.withOfm x).ol = s.ol := rfl
@[simp] theorem withOfm_pending (x : Monitor) : (s.withOfm x).pending = s.pending := rfl
@[simp] theorem withOfm_again (x y : Monitor) : (s.withOfm x).withOfm y = s.withOfm y := rfl
@[simp] theorem withOfm_self : s.withOfm s.ofm = s := rfl
@[simp] theorem withOfm_ptt (x : Monitor) : (s.withOfm x).ptt = s.ptt := rfl
@[simp] theorem withOfm_isLive (x : Monitor) : (s.withOfm x).isLive = s.isLive := rfl

/-! ### withFh -/

@[simp] theorem withFh_now (x : FrameHandler) : (s.withFh x).now = s.now := rfl
@[simp] theorem withFh_pins (x : FrameHandler) : (s.withFh x).pins = s.pins := rfl
@[simp] theorem withFh_mp (x : FrameHandler) : (s.withFh x).mp = s.mp := rfl
@[simp] theorem withFh_ofm (x : FrameHandler) : (s.withFh x).ofm = s.ofm := rfl
@[simp] theorem withFh_fh (x : FrameHandler) : (s.withFh x).fh = x := rfl
@[simp] theorem withFh_ms (x : FrameHandler) : (s.withFh x).ms = s.ms := rfl
@[simp] theorem withFh_idt (x : FrameHandler) : (s.withFh x).idt = s.idt := rfl
@[simp] theorem withFh_dt (x : FrameHandler) : (s.withFh x).dt = s.dt := rfl
@[simp] theorem withFh_ac (x : FrameHandler) : (s.withFh x).ac = s.ac := rfl
@[simp] theorem withFh_du (x : FrameHandler) : (s.withFh x).du = s.du := rfl
@[simp] theorem withFh_ol (x : FrameHandler) : (s.withFh x).ol = s.ol := rfl
@[simp] theorem withFh_pending (x : FrameHandler) : (s.withFh x).pending = s.pending := rfl
@[simp] theorem withFh_again (x y : FrameHandler) : (s.withFh x).withFh y = s.withFh y := rfl
@[simp] theorem withFh_self : s.withFh s.fh = s := rfl
@[simp] theorem withFh_ptt (x : FrameHandler) : (s.withFh x).ptt = s.ptt := rfl
@[simp] theorem withFh_isLive (x : FrameHandler) : (s.withFh x).isLive = s.isLive := rfl

/-! ### withMs -/

@[simp] theorem withMs_now (x : Store) : (s.withMs x).now = s.now := rfl
@[simp] theorem withMs_pins (x : Store) : (s.withMs x).pins = s.pins := rfl
@[simp] theorem withMs_mp (x : Store) : (s.withMs x).mp = s.mp := rfl
@[simp] theorem withMs_ofm (x : Store) : (s.withMs x).ofm = s.ofm := rfl
@[simp] theorem withMs_fh (x : Store) : (s.withMs x).fh = s.fh := rfl
@[simp] theorem withMs_ms (x : Store) : (s.withMs x).ms = x := rfl
@[simp] theorem withMs_idt (x : Store) : (s.withMs x).idt = s.idt := rfl
@[simp] theorem withMs_dt (x : Store) : (s.withMs x).dt = s.dt := rfl
@[simp] theorem withMs_ac (x : Store) : (s.withMs x).ac = s.ac := rfl
@[simp] theorem withMs_du (x : Store) : (s.withMs x).du = s.du := rfl
@[simp] theorem withMs_ol (x : Store) : (s.withMs x).ol = s.ol := rfl
@[simp] theorem withMs_pending (x : Store) : (s.withMs x).pending = s.pending := rfl
@[simp] theorem withMs_again (x y : Store) : (s.withMs x).withMs y = s.withMs y := rfl
@[simp] theorem withMs_self : s.withMs s.ms = s := rfl
@[simp] theorem withMs_ptt (x : Store) : (s.withMs x).ptt = s.ptt := rfl
@[simp] theorem withMs_isLive (x : Store) : (s.withMs x).isLive = s.isLive := rfl

/-! ### withIdt -/

@[simp] theorem withIdt_now (x : IdTable) : (s.withIdt x).now = s.now := rfl
@[simp] theorem withIdt_pins (x : IdTable) : (s.withIdt x).pins = s.pins := rfl
@[simp] theorem withIdt_mp (x : IdTable) : (s.withIdt x).mp = s.mp := rfl
@[simp] theorem withIdt_ofm (x : IdTable) : (s.withIdt x).ofm = s.ofm := rfl
@[simp] theorem withIdt_fh (x : IdTable) : (s.withIdt x).fh = s.fh := rfl
@[simp] theorem withIdt_ms (x : IdTable) : (s.withIdt x).ms = s.ms := rfl
@[simp] theorem withIdt_idt (x : IdTable) : (s.withIdt x).idt = x := rfl
@[simp] theorem withIdt_dt (x : IdTable) : (s.withIdt x).dt = s.dt := rfl
@[simp] theorem withIdt_ac (x : IdTable) : (s.withIdt x).ac = s.ac := rfl
@[simp] theorem withIdt_du (x : IdTable) : (s.withIdt x).du = s.du := rfl
@[simp] theorem withIdt_ol (x : IdTable) : (s.withIdt x).ol = s.ol := rfl
@[simp] theorem withIdt_pending (x : IdTable) : (s.withIdt x).pending = s.pending := rfl
@[simp] theorem withIdt_again (x y : IdTable) : (s.withIdt x).withIdt y = s.withIdt y := rfl
@[simp] theorem withIdt_self : s.withIdt s.idt = s := rfl
@[simp] theorem withIdt_ptt (x : IdTable) : (s.withIdt x).ptt = s.ptt := rfl
@[simp] theorem withIdt_isLive (x : IdTable) : (s.withIdt x).isLive = s.isLive := rfl

/-! ### withDt -/

@[simp] theorem withDt_now (x : DistTable) : (s.withDt x).now = s.now := rfl
@[simp] theorem withDt_pins (x : DistTable) : (s.withDt x).pins = s.pins := rfl
@[simp] theorem withDt_mp (x : DistTable) : (s.withDt x).mp = s.mp := rfl
@[simp] theorem withDt_ofm (x : DistTable) : (s.withDt x).ofm = s.ofm := rfl
@[simp] theorem withDt_fh (x : DistTable) : (s.withDt x).fh = s.fh := rfl
@[simp] theorem withDt_ms (x : DistTable) : (s.withDt x).ms = s.ms := rfl
@[simp] theorem withDt_idt (x : DistTable) : (s.withDt x).idt = s.idt := rfl
@[simp] theorem withDt_dt (x : DistTable) : (s.withDt x).dt = x := rfl
@[simp] theorem withDt_ac (x : DistTable) : (s.withDt x).ac = s.ac := rfl
@[simp] theorem withDt_du (x : DistTable) : (s.withDt x).du = s.du := rfl
@[simp] theorem withDt_ol (x : DistTable) : (s.withDt x).ol = s.ol := rfl
@[simp] theorem withDt_pending (x : DistTable) : (s.withDt x).pending = s.pending := rfl
@[simp] theorem withDt_again (x y : DistTable) : (s.withDt x).withDt y = s.withDt y := rfl
@[simp] theorem withDt_self : s.withDt s.dt = s := rfl
@[simp] theorem withDt_ptt (x : DistTable) : (s.withDt x).ptt = s.ptt := rfl
@[simp] theorem withDt_isLive (x : DistTable) : (s.withDt x).isLive = s.isLive := rfl

/-! ### withAc -/

@[simp] theorem withAc_now (x : AccessController) : (s.withAc x).now = s.now := rfl
@[simp] theorem withAc_pins (x : AccessController) : (s.withAc x).pins = s.pins := rfl
@[simp] theorem withAc_mp (x : AccessController) : (s.withAc x).mp = s.mp := rfl
@[simp] theorem withAc_ofm (x : AccessController) : (s.withAc x).ofm = s.ofm := rfl
@[simp] theorem withAc_fh (x : AccessController) : (s.withAc x).fh = s.fh := rfl
@[simp] theorem withAc_ms (x : AccessController) : (s.withAc x).ms = s.ms := rfl
@[simp] theorem withAc_idt (x : AccessController) : (s.withAc x).idt = s.idt := rfl
@[simp] theorem withAc_dt (x : AccessController) : (s.withAc x).dt = s.dt := rfl
@[simp] theorem withAc_ac (x : AccessController) : (s.withAc x).ac = x := rfl
@[simp] theorem withAc_du (x : AccessController) : (s.withAc x).du = s.du := rfl
@[simp] theorem withAc_ol (x : AccessController) : (s.withAc x).ol = s.ol := rfl
@[simp] theorem withAc_pending (x : AccessController) : (s.withAc x).pending = s.pending := rfl
@[simp] theorem withAc_again (x y : AccessController) : (s.withAc x).withAc y = s.withAc y := rfl
@[simp] theorem withAc_self : s.withAc s.ac = s := rfl
@[simp] theorem withAc_ptt (x : AccessController) : (s.withAc x).ptt = s.ptt := rfl
@[simp] theorem withAc_isLive (x : AccessController) : (s.withAc x).isLive = s.isLive := rfl

/-! ### withDu -/

@[simp] theorem withDu_now (x : DeliveryUnit) : (s.withDu x).now = s.now := rfl
@[simp] theorem withDu_pins (x : DeliveryUnit) : (s.withDu x).pins = s.pins := rfl
@[simp] theorem withDu_mp (x : DeliveryUnit) : (s.withDu x).mp = s.mp := rfl
@[simp] theorem withDu_ofm (x : DeliveryUnit) : (s.withDu x).ofm = s.ofm := rfl
@[simp] theorem withDu_fh (x : DeliveryUnit) : (s.withDu x).fh = s.fh := rfl
@[simp] theorem withDu_ms (x : DeliveryUnit) : (s.withDu x).ms = s.ms := rfl
@[simp] theorem withDu_idt (x : DeliveryUnit) : (s.withDu x).idt = s.idt := rfl
@[simp] theorem withDu_dt (x : DeliveryUnit) : (s.withDu x).dt = s.dt := rfl
@[simp] theorem withDu_ac (x : DeliveryUnit) : (s.withDu x).ac = s.ac := rfl
@[simp] theorem withDu_du (x : DeliveryUnit) : (s.withDu x).du = x := rfl
@[simp] theorem withDu_ol (x : DeliveryUnit) : (s.withDu x).ol = s.ol := rfl
@[simp] theorem withDu_pending (x : DeliveryUnit) : (s.withDu x).pending = s.pending := rfl
@[simp] theorem withDu_again (x y : DeliveryUnit) : (s.withDu x).withDu y = s.withDu y := rfl
@[simp] theorem withDu_self : s.withDu s.du = s := rfl
@[simp] theorem withDu_ptt (x : DeliveryUnit) : (s.withDu x).ptt = s.ptt := rfl
@[simp] theorem withDu_isLive (x : DeliveryUnit) : (s.withDu x).isLive = s.isLive := rfl

/-! ### withOl -/

@[simp] theorem withOl_now (x : OperatorLine) : (s.withOl x).now = s.now := rfl
@[simp] theorem withOl_pins (x : OperatorLine) : (s.withOl x).pins = s.pins := rfl
@[simp] theorem withOl_mp (x : OperatorLine) : (s.withOl x).mp = s.mp := rfl
@[simp] theorem withOl_ofm (x : OperatorLine) : (s.withOl x).ofm = s.ofm := rfl
@[simp] theorem withOl_fh (x : OperatorLine) : (s.withOl x).fh = s.fh := rfl
@[simp] theorem withOl_ms (x : OperatorLine) : (s.withOl x).ms = s.ms := rfl
@[simp] theorem withOl_idt (x : OperatorLine) : (s.withOl x).idt = s.idt := rfl
@[simp] theorem withOl_dt (x : OperatorLine) : (s.withOl x).dt = s.dt := rfl
@[simp] theorem withOl_ac (x : OperatorLine) : (s.withOl x).ac = s.ac := rfl
@[simp] theorem withOl_du (x : OperatorLine) : (s.withOl x).du = s.du := rfl
@[simp] theorem withOl_ol (x : OperatorLine) : (s.withOl x).ol = x := rfl
@[simp] theorem withOl_pending (x : OperatorLine) : (s.withOl x).pending = s.pending := rfl
@[simp] theorem withOl_again (x y : OperatorLine) : (s.withOl x).withOl y = s.withOl y := rfl
@[simp] theorem withOl_self : s.withOl s.ol = s := rfl
@[simp] theorem withOl_ptt (x : OperatorLine) : (s.withOl x).ptt = s.ptt := rfl
@[simp] theorem withOl_isLive (x : OperatorLine) : (s.withOl x).isLive = decide (x.phase = .live) := rfl

/-! ### withPending -/

@[simp] theorem withPending_now (x : List Instr) : (s.withPending x).now = s.now := rfl
@[simp] theorem withPending_pins (x : List Instr) : (s.withPending x).pins = s.pins := rfl
@[simp] theorem withPending_mp (x : List Instr) : (s.withPending x).mp = s.mp := rfl
@[simp] theorem withPending_ofm (x : List Instr) : (s.withPending x).ofm = s.ofm := rfl
@[simp] theorem withPending_fh (x : List Instr) : (s.withPending x).fh = s.fh := rfl
@[simp] theorem withPending_ms (x : List Instr) : (s.withPending x).ms = s.ms := rfl
@[simp] theorem withPending_idt (x : List Instr) : (s.withPending x).idt = s.idt := rfl
@[simp] theorem withPending_dt (x : List Instr) : (s.withPending x).dt = s.dt := rfl
@[simp] theorem withPending_ac (x : List Instr) : (s.withPending x).ac = s.ac := rfl
@[simp] theorem withPending_du (x : List Instr) : (s.withPending x).du = s.du := rfl
@[simp] theorem withPending_ol (x : List Instr) : (s.withPending x).ol = s.ol := rfl
@[simp] theorem withPending_pending (x : List Instr) : (s.withPending x).pending = x := rfl
@[simp] theorem withPending_again (x y : List Instr) : (s.withPending x).withPending y = s.withPending y := rfl
@[simp] theorem withPending_self : s.withPending s.pending = s := rfl
@[simp] theorem withPending_ptt (x : List Instr) : (s.withPending x).ptt = s.ptt := rfl
@[simp] theorem withPending_isLive (x : List Instr) : (s.withPending x).isLive = s.isLive := rfl

end Sys2Proof.Machine
end

