-- ==== Sys2Proof/Laws/Line.lean ====
section
/-! SUPPORT. The operator line: what taking a line, placing an answer and a command's tests do. -/

namespace Sys2Proof.Machine

/-! ### Taking a line -/

@[simp] theorem takeLine_phase (o : OperatorLine) (c : Instr) : (o.takeLine c).phase = o.phase := by
  unfold OperatorLine.takeLine; split <;> rfl
@[simp] theorem takeLine_ownCode (o : OperatorLine) (c : Instr) : (o.takeLine c).ownCode = o.ownCode := by
  unfold OperatorLine.takeLine; split <;> rfl
@[simp] theorem takeLine_callsign (o : OperatorLine) (c : Instr) : (o.takeLine c).callsign = o.callsign := by
  unfold OperatorLine.takeLine; split <;> rfl
@[simp] theorem takeLine_centre (o : OperatorLine) (c : Instr) : (o.takeLine c).centre = o.centre := by
  unfold OperatorLine.takeLine; split <;> rfl
@[simp] theorem takeLine_settings (o : OperatorLine) (c : Instr) : (o.takeLine c).settings = o.settings := by
  unfold OperatorLine.takeLine; split <;> rfl
@[simp] theorem takeLine_classes (o : OperatorLine) (c : Instr) : (o.takeLine c).classes = o.classes := by
  unfold OperatorLine.takeLine; split <;> rfl
@[simp] theorem takeLine_rate (o : OperatorLine) (c : Instr) : (o.takeLine c).rate = o.rate := by
  unfold OperatorLine.takeLine; split <;> rfl
@[simp] theorem takeLine_typing (o : OperatorLine) (c : Instr) : (o.takeLine c).typing = o.typing := by
  unfold OperatorLine.takeLine; split <;> rfl
@[simp] theorem takeLine_output (o : OperatorLine) (c : Instr) : (o.takeLine c).output = o.output := by
  unfold OperatorLine.takeLine; split <;> rfl
@[simp] theorem takeLine_sending (o : OperatorLine) (c : Instr) : (o.takeLine c).sending = o.sending := by
  unfold OperatorLine.takeLine; split <;> rfl
@[simp] theorem takeLine_waiting (o : OperatorLine) (c : Instr) : (o.takeLine c).waiting = o.waiting := by
  unfold OperatorLine.takeLine; split <;> rfl
@[simp] theorem takeLine_unmasking (o : OperatorLine) (c : Instr) : (o.takeLine c).unmasking = o.unmasking := by
  unfold OperatorLine.takeLine; split <;> rfl
@[simp] theorem takeLine_blockOpen (o : OperatorLine) (c : Instr) : (o.takeLine c).blockOpen = o.blockOpen := by
  unfold OperatorLine.takeLine; split <;> rfl
@[simp] theorem takeLine_fetchLeft (o : OperatorLine) (c : Instr) : (o.takeLine c).fetchLeft = o.fetchLeft := by
  unfold OperatorLine.takeLine; split <;> rfl
@[simp] theorem takeLine_post (o : OperatorLine) (c : Instr) : (o.takeLine c).post = o.post := by
  unfold OperatorLine.takeLine; split <;> rfl
@[simp] theorem takeLine_notices (o : OperatorLine) (c : Instr) : (o.takeLine c).notices = o.notices := by
  unfold OperatorLine.takeLine; split <;> rfl
@[simp] theorem takeLine_masked (o : OperatorLine) (c : Instr) : (o.takeLine c).masked = o.masked := by
  unfold OperatorLine.takeLine; split <;> rfl
@[simp] theorem takeLine_selfTest (o : OperatorLine) (c : Instr) : (o.takeLine c).selfTest = o.selfTest := by
  unfold OperatorLine.takeLine; split <;> rfl

@[simp] theorem takeLine_answered (o : OperatorLine) (c : Instr) : (o.takeLine c).answered = o.answered := by
  unfold OperatorLine.answered; rw [takeLine_waiting]

/-! ### Placing lines -/

theorem answered_of_nothing {o : OperatorLine} (h : o.waiting = []) : o.answered = true := by
  simp [OperatorLine.answered, answering, h]

/-- A report of a self-test does not keep the next line waiting. -/
theorem answering_report (ls : List OutLine) (t : Text) : answering (ls ++ [⟨t, true⟩]) = answering ls := by simp [answering]

@[simp] theorem answering_answerLines (ls : List Text) : answering (answerLines ls) = answerLines ls := by
  simp [answering, answerLines, List.filter_eq_self]

@[simp] theorem render_nil : render [] = [] := rfl

@[simp] theorem render_cons (l : OutLine) (ls : List OutLine) : render (l :: ls) = l.text ++ crlf ++ render ls := rfl

/-- Placing takes lines from the front, and loses and reorders nothing. -/
theorem placeLines_placed (ls : List OutLine) (out : Text) :
    ∃ done, ls = done ++ (placeLines ls out).2 ∧ (placeLines ls out).1 = out ++ render done
      ∧ ∀ a l b, done = a ++ l :: b → (out ++ render a).length + l.text.length + 2 ≤ Config.outputCapacity := by
  have none_done (out : Text) (ls : List OutLine) : ∃ done, ls = done ++ ls ∧ out = out ++ render done
      ∧ ∀ a l b, done = a ++ l :: b → (out ++ render a).length + l.text.length + 2 ≤ Config.outputCapacity :=
    ⟨[], rfl, (List.append_nil out).symm, fun a l b h => absurd h (by simp)⟩
  induction ls generalizing out with
  | nil => exact none_done out []
  | cons l ls ih =>
    unfold placeLines
    split
    · rename_i room
      obtain ⟨done, h, g, f⟩ := ih (out ++ l.text ++ crlf)
      refine ⟨l :: done, congrArg (l :: ·) h, by rw [g]; simp, fun a k b e => ?_⟩
      cases a with
      | nil => cases e; simpa using room
      | cons x a => cases e; simpa [Nat.add_assoc] using f a k b rfl
    · exact none_done out _

/-- A line that still waits had no room. -/
theorem placeLines_waits (ls : List OutLine) (out : Text) (l : OutLine) (rest : List OutLine)
    (h : (placeLines ls out).2 = l :: rest) :
    Config.outputCapacity < (placeLines ls out).1.length + l.text.length + 2 := by
  induction ls generalizing out with
  | nil => cases h
  | cons a ls ih =>
    unfold placeLines at h ⊢
    split at h
    · rename_i room; rw [if_pos room]; exact ih _ h
    · rename_i full; rw [if_neg full]; cases h; exact Nat.lt_of_not_le full

/-- Placing never overfills the output buffer. -/
theorem placeLines_fits (ls : List OutLine) (out : Text) (h : out.length ≤ Config.outputCapacity) :
    (placeLines ls out).1.length ≤ Config.outputCapacity := by
  induction ls generalizing out with
  | nil => exact h
  | cons l ls ih =>
    unfold placeLines
    split
    · apply ih; simpa [crlf, Nat.add_assoc] using ‹_›
    · exact h

/-- Everything that composing lines does. -/
theorem placed_compose (ls : List OutLine) (s : State) : Placed ls s (compose ls s) where
  placed := placeLines_placed _ _
  waits := placeLines_waits _ _
  sending := rfl
  blockOpen := rfl
  unmasking := rfl
  fetchLeft := rfl

/-- Everything an answer does. -/
theorem placed_answer (ls : List Text) (s : State) : Placed (answerLines ls) s (answer ls s) := placed_compose _ s

/-- What was waiting, placed. -/
theorem placed_flush (s : State) : Placed [] s (flush s) where
  placed := by rw [List.append_nil]; exact placeLines_placed s.ol.waiting s.ol.output
  waits := placeLines_waits _ _
  sending := rfl
  blockOpen := by rw [List.append_nil]; rfl
  unmasking := rfl
  fetchLeft := rfl

@[simp] theorem compose_calm (ls : List OutLine) (s r : State) : (compose ls s).calm r = s.calm r := rfl

@[simp] theorem answer_calm (ls : List Text) (s r : State) : (answer ls s).calm r = s.calm r := rfl

@[simp] theorem flush_calm (s r : State) : (flush s).calm r = s.calm r := rfl

/-! ### Commands -/

@[simp] theorem calm_takeLine (s r : State) (c : Instr) : (s.withOl (s.ol.takeLine c)).calm r = s.calm r := by
  simp [State.calm, OperatorLine.calm]

@[simp] theorem calm_self (s : State) : s.calm s = s := rfl

/-- A command that its own rule decides runs that rule once its line is taken. -/
theorem command_acts {c : Instr} {p : Phase} {need : Option Phase} {act : State → State} {s : State}
    (h : CanTake p s) (hn : need = none ∨ need = some p) :
    command c need act s = act (s.withOl (s.ol.takeLine c)) := by
  obtain ⟨hp, hw, hpost, ht⟩ := h
  rcases hn with rfl | rfl <;> simp [command, wrongPhase, hp, hw, hpost, ht]

/-- An answer composed over `u`, which differs from `s` in no traffic but the line taken, is the answer to the command. -/
theorem answered_of_answer {c : Instr} {ls : List Text} {s u r : State} (hx : exec c s = .next (answer ls u))
    (hl : u.ol.lines = (s.ol.takeLine c).lines) (ho : u.ol.ordy = (s.ol.takeLine c).ordy)
    (hout : u.ol.output = s.ol.output) (hw : u.ol.waiting = s.ol.waiting) (hs : u.ol.sending = s.ol.sending)
    (hb : u.ol.blockOpen = s.ol.blockOpen) (hu : u.ol.unmasking = s.ol.unmasking) (hf : u.ol.fetchLeft = s.ol.fetchLeft)
    (hr : u.calm s = r) : Answered c ls r s := by
  have hp := placed_answer ls u
  refine ⟨_, hx, ⟨⟨?_, hp.waits, ?_, ?_, ?_, ?_⟩, hl, ho⟩, hr⟩
  · rw [← hout, ← hw]; exact hp.placed
  · rw [hp.sending, hs]
  · rw [hp.blockOpen, hb, hw]
  · rw [hp.unmasking, hu]
  · rw [hp.fetchLeft, hf]

end Sys2Proof.Machine
end

