-- ==== Sys2Proof/Laws/Ops.lean ====
section
/-! SUPPORT. The shared operations: what each can do, said once. -/

namespace Sys2Proof.Machine

/-! ### Tables of fixed size -/

@[simp] theorem look_place_same {α : Type} {n : Nat} (v : Vector α n) (i : Fin n) (x : α) : look (place v i x) i = x := by
  simp [look, place]

theorem look_place_other {α : Type} {n : Nat} (v : Vector α n) {i j : Fin n} (x : α) (h : j ≠ i) :
    look (place v i x) j = look v j := by
  have hv : i.val ≠ j.val := fun e => h (Fin.ext e.symm)
  simp [look, place, hv]

@[simp] theorem look_replicate {α : Type} {n : Nat} (x : α) (i : Fin n) : look (Vector.replicate n x) i = x := by simp [look]

@[simp] theorem look_map {α β : Type} {n : Nat} (f : α → β) (v : Vector α n) (i : Fin n) : look (v.map f) i = f (look v i) := by
  simp [look]

/-! ### Evaluation of the Access Controller -/

/-- An evaluation changes the Access Controller alone. -/
@[simp] theorem evaluate_frame (s : State) : (evaluate s).withAc s.ac = s := rfl

@[simp] theorem evaluate_now (s : State) : (evaluate s).now = s.now := rfl
@[simp] theorem evaluate_pins (s : State) : (evaluate s).pins = s.pins := rfl
@[simp] theorem evaluate_mp (s : State) : (evaluate s).mp = s.mp := rfl
@[simp] theorem evaluate_ofm (s : State) : (evaluate s).ofm = s.ofm := rfl
@[simp] theorem evaluate_fh (s : State) : (evaluate s).fh = s.fh := rfl
@[simp] theorem evaluate_ms (s : State) : (evaluate s).ms = s.ms := rfl
@[simp] theorem evaluate_idt (s : State) : (evaluate s).idt = s.idt := rfl
@[simp] theorem evaluate_dt (s : State) : (evaluate s).dt = s.dt := rfl
@[simp] theorem evaluate_du (s : State) : (evaluate s).du = s.du := rfl
@[simp] theorem evaluate_ol (s : State) : (evaluate s).ol = s.ol := rfl
@[simp] theorem evaluate_pending (s : State) : (evaluate s).pending = s.pending := rfl
@[simp] theorem evaluate_ac (s : State) : (evaluate s).ac = evaluatedAc s := rfl

/-- An evaluation leaves the queues, the flags, the timers and the frames sent. -/
@[simp] theorem evaluatedAc_frame (s : State) :
    (evaluatedAc s).queues = s.ac.queues ∧ (evaluatedAc s).identDue = s.ac.identDue ∧ (evaluatedAc s).beaconDue = s.ac.beaconDue
      ∧ (evaluatedAc s).identTimer = s.ac.identTimer ∧ (evaluatedAc s).beaconTimer = s.ac.beaconTimer
      ∧ (evaluatedAc s).quiet = s.ac.quiet ∧ (evaluatedAc s).listenEnd = s.ac.listenEnd ∧ (evaluatedAc s).sent = s.ac.sent := by
  unfold evaluatedAc begin deferOrDraw drawnAc AccessController.rest
  (repeat' split) <;> exact ⟨rfl, rfl, rfl, rfl, rfl, rfl, rfl, rfl⟩

/-- In KEYED nothing changes. -/
theorem evaluate_keyed {s : State} (h : s.ac.access = .keyed) : evaluate s = s := by simp [evaluate, evaluatedAc, h]

/-- No evaluation enters KEYED. -/
theorem evaluatedAc_unkeyed {s : State} (h : s.ac.access ≠ .keyed) : (evaluatedAc s).access ≠ .keyed := by
  unfold evaluatedAc begin deferOrDraw drawnAc AccessController.rest
  cases hx : s.ac.access <;> simp [hx] at h ⊢ <;> (repeat' split) <;> simp_all

/-- After an evaluation a delay runs exactly in COUNTING, if it did before. -/
theorem evaluatedAc_delay {s : State} (h : s.ac.delayEnd.isSome = true ↔ s.ac.access = .counting) :
    (evaluatedAc s).delayEnd.isSome = true ↔ (evaluatedAc s).access = .counting := by
  unfold evaluatedAc begin deferOrDraw drawnAc AccessController.rest
  cases hx : s.ac.access <;> simp only [hx] at h ⊢ <;> (repeat' split) <;> simp_all

/-- A fresh evaluation is the one made in IDLE without a delay, and changes AC alone. -/
theorem evaluateFresh_ac (s : State) :
    (evaluateFresh s).ac = evaluatedAc ((evaluateFresh s).withAc (s.ac.rest .idle)) ∧ (evaluateFresh s).withAc s.ac = s := ⟨rfl, rfl⟩

/-- A fresh evaluation never leaves KEYED standing. -/
theorem evaluateFresh_unkeyed (s : State) : (evaluateFresh s).ac.access ≠ .keyed :=
  evaluatedAc_unkeyed (by simp [AccessController.rest])

/-! ### Queues -/

theorem enqueueTail_frame (c : MsgClass) (i : Fin 64) (s : State) :
    (enqueueTail c i s).withAc s.ac = s ∧ (enqueueTail c i s).ac.queues = joinTail s.ac.queues c i :=
  ⟨rfl, (evaluatedAc_frame _).1⟩

theorem enqueueHead_frame (c : MsgClass) (i : Fin 64) (s : State) :
    (enqueueHead c i s).withAc s.ac = s ∧ (enqueueHead c i s).ac.queues = joinHead s.ac.queues c i :=
  ⟨rfl, (evaluatedAc_frame _).1⟩

theorem dequeue_frame (c : MsgClass) (i : Fin 64) (s : State) :
    (dequeue c i s).withAc s.ac = s ∧ (dequeue c i s).ac.queues = leave s.ac.queues c i :=
  ⟨rfl, (evaluatedAc_frame _).1⟩

@[simp] theorem joinTail_get (q : PerClass (List (Fin 64))) (c d : MsgClass) (i : Fin 64) :
    (joinTail q c i).get d = if d = c then q.get c ++ [i] else q.get d := by cases c <;> cases d <;> rfl

@[simp] theorem joinHead_get (q : PerClass (List (Fin 64))) (c d : MsgClass) (i : Fin 64) :
    (joinHead q c i).get d = if d = c then i :: q.get c else q.get d := by cases c <;> cases d <;> rfl

@[simp] theorem leave_get (q : PerClass (List (Fin 64))) (c d : MsgClass) (i : Fin 64) :
    (leave q c i).get d = if d = c then (q.get c).filter (fun j => j != i) else q.get d := by cases c <;> cases d <;> rfl

/-! ### Faults and notices -/

@[simp] theorem faults_get_set (v : Faults) (f g : ChannelFault) (r : FaultRecord) :
    (v.set f r).get g = if g = f then r else v.get g := by cases f <;> cases g <;> rfl

@[simp] theorem notices_has_put (v : NoticeSet) (k j : Notice) (b : Bool) :
    (v.put k b).has j = if j = k then b else v.has j := by cases k <;> cases j <;> rfl

/-- A fault that is live already changes nothing when raised again. -/
theorem raiseFault_live {f : ChannelFault} {s : State} (h : (s.ofm.faults.get f).live = true) : raiseFault f s = s := by
  simp [raiseFault, h]

/-- Raising a fault changes the Monitor's flags and request count, and the pending notices, nothing else. -/
theorem raiseFault_frame (f : ChannelFault) (s : State) :
    ((raiseFault f s).withOfm s.ofm).withOl { (raiseFault f s).ol with notices := s.ol.notices } = s := by
  unfold raiseFault raiseNotice; dsimp only; (repeat' split) <;> rfl

/-- After raising, the fault is live, and held if it was not live before. -/
theorem raiseFault_raised (f : ChannelFault) (s : State) :
    ((raiseFault f s).ofm.faults.get f).live = true
      ∧ ((s.ofm.faults.get f).live = false → ((raiseFault f s).ofm.faults.get f).held = true) := by
  unfold raiseFault raiseNotice; dsimp only; (repeat' split) <;> simp_all

/-- Clearing a live flag changes that flag alone. -/
theorem clearLive_frame (f : ChannelFault) (s : State) :
    (clearLive f s).withOfm s.ofm = s ∧ ((clearLive f s).ofm.faults.get f).live = false
      ∧ ((clearLive f s).ofm.faults.get f).held = (s.ofm.faults.get f).held := by
  refine ⟨rfl, ?_, ?_⟩ <;> simp [clearLive]

/-- Raising a fault leaves MP's two clock conditions as they were. -/
theorem raiseFault_conditions (f : ChannelFault) (s : State) :
    (raiseFault f s).ofm.rxLoss = s.ofm.rxLoss ∧ (raiseFault f s).ofm.txLoss = s.ofm.txLoss := by
  unfold raiseFault; dsimp only; (repeat' split) <;> exact ⟨rfl, rfl⟩

/-- MP's report leaves CLOCK-LOSS live exactly while a condition holds. -/
theorem reportClocks_live (rx tx : Bool) (s : State) :
    ((reportClocks rx tx s).ofm.faults.get .clockLoss).live = (rx || tx)
      ∧ (reportClocks rx tx s).ofm.rxLoss = rx ∧ (reportClocks rx tx s).ofm.txLoss = tx := by
  simp only [reportClocks]
  cases h : rx || tx
  · simp only [Bool.false_eq_true, if_false]; exact ⟨(clearLive_frame _ _).2.1, rfl, rfl⟩
  · simp only [if_true]; exact ⟨(raiseFault_raised _ _).1, (raiseFault_conditions _ _).1, (raiseFault_conditions _ _).2⟩

/-! ### Slots -/

/-- A slot that goes FREE: the store, the table and the Access Controller change, nothing else. -/
theorem freeSlot_frame (i : Fin 64) (d : Disposition) (s : State) :
    (((freeSlot i d s).withMs s.ms).withIdt s.idt).withAc s.ac = s := by
  unfold freeSlot
  split
  · rfl
  · dsimp only
    split <;> simp only [dequeue, evaluate, State.withMs, State.withIdt, State.withAc]

theorem freeSlot_held {i : Fin 64} {sl : Slot} {s : State} (d : Disposition) (h : look s.ms.slots i = some sl) :
    (freeSlot i d s).ms = s.ms.release i ∧ (freeSlot i d s).idt = s.idt.unlink sl.id d
      ∧ (freeSlot i d s).ac.queues = if sl.state = .queued then leave s.ac.queues sl.cls i else s.ac.queues := by
  simp only [freeSlot, h]
  split
  · rename_i hq
    refine ⟨by simp only [dequeue, evaluate_ms, withAc_ms, withIdt_ms, withMs_ms],
      by simp only [dequeue, evaluate_idt, withAc_idt, withIdt_idt], ?_⟩
    simp only [(dequeue_frame _ _ _).2, withIdt_ac, withMs_ac]
  · simp only [withIdt_ms, withMs_ms, withIdt_idt, withIdt_ac, withMs_ac, and_self]

/-- What releasing a slot does to the store. -/
theorem release_held {m : Store} {i : Fin 64} {sl : Slot} (h : look m.slots i = some sl) :
    m.release i = { m with slots := place m.slots i none, free := m.free ++ sl.attached } := by
  simp [Store.release, h]

@[simp] theorem modSlot_ms (i : Fin 64) (f : Slot → Slot) (s : State) : (modSlot i f s).ms = s.ms.modSlot i f := rfl

theorem modSlot_frame (i : Fin 64) (f : Slot → Slot) (s : State) : (modSlot i f s).withMs s.ms = s := rfl

@[simp] theorem modSlot_same (m : Store) (i : Fin 64) (f : Slot → Slot) :
    look (m.modSlot i f).slots i = (look m.slots i).map f := look_place_same _ _ _

theorem modSlot_other (m : Store) {i j : Fin 64} (f : Slot → Slot) (h : j ≠ i) :
    look (m.modSlot i f).slots j = look m.slots j := look_place_other _ _ h

/-- A change of a slot's record that keeps its blocks keeps every block where it was. -/
@[simp] theorem modSlot_free (m : Store) (i : Fin 64) (f : Slot → Slot) :
    (m.modSlot i f).free = m.free ∧ (m.modSlot i f).blocks = m.blocks := ⟨rfl, rfl⟩

/-! ### The Distance Table -/

@[simp] theorem retier_singles (c : Bool) (t : DistTable) : (t.retier c).singles = t.singles := rfl

/-- A query changes the order of the single entries alone. -/
theorem query_frame (own : Option Code) (t : DistTable) (x : Code) :
    { (t.query own x).2 with singles := t.singles } = t := by
  unfold DistTable.query; (repeat' split) <;> rfl

/-! ### Outcomes and the pool -/

/-- The Outcome List never grows beyond its 16 records. -/
theorem addOutcome_fits {id : Identity} {k : OutcomeKind} {s : State} (h : s.du.outcomes.length ≤ Config.poolSize) :
    (addOutcome id k s).du.outcomes.length ≤ Config.poolSize := by
  unfold addOutcome Config.poolSize at *
  by_cases c : s.du.outcomes.length < 16 <;> simp [c] <;> omega

theorem addOutcome_frame (id : Identity) (k : OutcomeKind) (s : State) :
    (addOutcome id k s).withDu { (addOutcome id k s).du with outcomes := s.du.outcomes } = s := rfl

/-! ### The Identity Table -/

/-- A lookup finds what stands there, and its write touches that entry. -/
theorem modify_missing {t : IdTable} {i : Identity} (f : Entry → Entry) (h : t.find i = none) : t.modify i f = t := by
  simp [IdTable.modify, h]

/-- A place that holds an identity holds an entry of that identity. -/
theorem holds_entry {t : IdTable} {i : Identity} {p : Spot} (h : t.holds i p = true) : ∃ e, t.at p = some e ∧ e.id = i := by
  unfold IdTable.holds at h
  split at h
  · rename_i e he; exact ⟨e, he, by simpa using h⟩
  · cases h

/-- The entry found has the identity asked for. -/
theorem entry_id {t : IdTable} {i : Identity} {e : Entry} (h : t.entry i = some e) : e.id = i := by
  unfold IdTable.entry at h
  cases hf : t.find i with
  | none => rw [hf] at h; cases h
  | some p =>
    rw [hf] at h
    obtain ⟨e', he, hid⟩ := holds_entry (List.find?_some hf)
    have : t.at p = some e := h
    rw [he] at this; cases this; exact hid

end Sys2Proof.Machine
end

