-- ==== Sys2Proof/Laws/Bits.lean ====
section
/-! SUPPORT. The modem's bits: what a sample can do in each state of the assembler, and what the eight bits of a byte do, so that no proof unfolds the sampler. -/

namespace Sys2Proof.Machine

/-! ### Bytes from bits -/

/-- Bit `i` of the byte that bits form is the `i`-th of them (R37). -/
theorem byteOf_bit {l : List Bool} {i : Nat} (hl : l.length ≤ 8) (hi : i < l.length) :
    (byteOf l).getLsbD i = l[i] := by
  induction l generalizing i with
  | nil => cases hi
  | cons b r ih =>
    cases i with
    | zero => cases b <;> simp [byteOf]
    | succ n =>
      have hn : n < r.length := Nat.lt_of_succ_lt_succ hi
      have hr : r.length ≤ 8 := Nat.le_of_succ_le hl
      have h8 : n + 1 < 8 := Nat.lt_of_lt_of_le (Nat.succ_lt_succ hn) hl
      have hb : (if b then (1 : Byte) else 0).getLsbD (n + 1) = false := by cases b <;> simp
      simp only [byteOf, BitVec.getLsbD_or, BitVec.getLsbD_shiftLeft, hb, Bool.or_false]
      simp [h8, ih hr hn]

/-- The bits of a byte in the order sent form it again. -/
theorem byteOf_byteBits (x : Byte) : byteOf (byteBits x) = x := by
  refine BitVec.eq_of_getLsbD_eq fun i hi => ?_
  rw [byteOf_bit (by simp [byteBits]) (by simpa [byteBits] using hi)]
  simp [byteBits]

/-! ### One sample -/

theorem sample_off {m : ModemPort} (h : m.assembler = .off) (q : Nibble) (b : Bool) : m.sample q b = (m, .nothing) := by
  simp [ModemPort.sample, h]

theorem sample_hunting {m : ModemPort} (h : m.assembler = .hunting) (q : Nibble) (b : Bool) : m.sample q b = m.huntBit b := by
  simp [ModemPort.sample, h]

theorem sample_gathering {m : ModemPort} {k : Fin 2} (h : m.assembler = .gathering k) (q : Nibble) (b : Bool) :
    m.sample q b = m.formByte b (m.gatherByte k q) := by simp [ModemPort.sample, h]

theorem sample_skipping {m : ModemPort} {n : Nat} (h : m.assembler = .skipping n) (q : Nibble) (b : Bool) :
    m.sample q b = m.formByte b (m.skipByte n) := by simp [ModemPort.sample, h]

/-- A bit that does not find the sync is shifted in and nothing else. -/
theorem huntBit_nothing {m : ModemPort} {b : Bool} (h : (m.shiftIn b).synced = false) : m.huntBit b = (m.shiftIn b, .nothing) := by
  simp [ModemPort.huntBit, h]

/-- A bit that finds it claims a buffer or begins a skip. -/
theorem huntBit_found {m : ModemPort} {b : Bool} (h : (m.shiftIn b).synced = true) : m.huntBit b = (m.shiftIn b).findSync := by
  simp [ModemPort.huntBit, h]

/-- A bit that does not end a byte joins it. -/
theorem formByte_joins {m : ModemPort} {b : Bool} {whole : Byte → ModemPort × Received} (h : m.forming.length < 7) :
    m.formByte b whole = ({ m with forming := m.forming ++ [b] }, .nothing) := by simp [ModemPort.formByte, h]

/-- The bits of the byte being formed are given up with it, whatever the byte brings. -/
theorem gatherByte_forming (m : ModemPort) (l : List Bool) (k : Fin 2) (q : Nibble) (x : Byte) :
    ({ m with forming := l } : ModemPort).gatherByte k q x = m.gatherByte k q x := rfl

theorem skipByte_forming (m : ModemPort) (l : List Bool) (n : Nat) (x : Byte) :
    ({ m with forming := l } : ModemPort).skipByte n x = m.skipByte n x := rfl

/-- A byte gathered is stored and nothing comes of it, while the frame goes on (R37). -/
theorem gatherByte_goesOn {m : ModemPort} {k : Fin 2} {q : Nibble} {x : Byte} {head : List Byte}
    (hb : look m.buffers k = .filling head) (hl : 5 ≤ head.length + 1 → payloadLength (head ++ [x]) ≤ Config.maxPayload)
    (hn : head.length + 1 ≠ 7 + payloadLength (head ++ [x])) :
    m.gatherByte k q x = ({ m with forming := [], buffers := place m.buffers k (.filling (head ++ [x])) }, .nothing) := by
  have h₁ : ¬(5 ≤ (head ++ [x]).length ∧ Config.maxPayload < payloadLength (head ++ [x])) := by
    rw [List.length_append]; exact fun h => absurd (hl h.1) (Nat.not_le_of_lt h.2)
  have h₂ : ¬(head ++ [x]).length = 7 + payloadLength (head ++ [x]) := by simpa using hn
  simp only [ModemPort.gatherByte, hb, RxBuffer.stored, if_neg h₁, if_neg h₂]

/-- The last byte of the check completes the frame (R38). -/
theorem gatherByte_completes {m : ModemPort} {k : Fin 2} {q : Nibble} {x : Byte} {head : List Byte}
    (hb : look m.buffers k = .filling head) (hok : payloadLength (head ++ [x]) ≤ Config.maxPayload)
    (hn : head.length + 1 = 7 + payloadLength (head ++ [x])) :
    m.gatherByte k q x = ({ m.hunt .hunting with
      buffers := place m.buffers k (.full (head ++ [x]) q), fullOrder := m.fullOrder ++ [k] }, .completed) := by
  have h₁ : ¬(5 ≤ (head ++ [x]).length ∧ Config.maxPayload < payloadLength (head ++ [x])) :=
    fun h => absurd hok (Nat.not_le_of_lt h.2)
  have h₂ : (head ++ [x]).length = 7 + payloadLength (head ++ [x]) := by simpa using hn
  simp only [ModemPort.gatherByte, hb, RxBuffer.stored, if_neg h₁, if_pos h₂]

/-! ### A run of samples -/

/-- Samples that bring nothing are passed; what follows them is taken from there. -/
theorem take_nothing {m m' : ModemPort} {q : Nibble} {b : Bool} {rest : List Bool} (h : m.sample q b = (m', .nothing)) :
    m.take q (b :: rest) = m'.take q rest := by simp [ModemPort.take, h]

/-- The first sample that brings an event ends the run. -/
theorem take_event {m m' : ModemPort} {q : Nibble} {b : Bool} {rest : List Bool} {e : Received} (h : m.sample q b = (m', e))
    (he : e ≠ .nothing) : m.take q (b :: rest) = (m', e, rest) := by
  cases e <;> simp_all [ModemPort.take]

/-- With the receiver OFF nothing is taken (R34). -/
theorem take_off {m : ModemPort} (h : m.assembler = .off) (q : Nibble) (l : List Bool) : m.take q l = (m, .nothing, []) := by
  induction l with
  | nil => rfl
  | cons b r ih => rw [take_nothing (sample_off h q b), ih]

/-- Up to seven bits of a frame under reception join the byte being formed (R37). -/
theorem take_forming {q : Nibble} {rest : List Bool} (l : List Bool) {m : ModemPort} {whole : Byte → ModemPort × Received}
    (hs : ∀ f b, ({ m with forming := f } : ModemPort).sample q b = ({ m with forming := f } : ModemPort).formByte b whole)
    (h : m.forming.length + l.length ≤ 7) :
    m.take q (l ++ rest) = ({ m with forming := m.forming ++ l } : ModemPort).take q rest := by
  induction l generalizing m with
  | nil => rw [List.append_nil]; rfl
  | cons b r ih =>
    have hf : m.forming.length < 7 := Nat.lt_of_lt_of_le (Nat.lt_add_of_pos_right (by simp)) h
    have h1 : m.sample q b = ({ m with forming := m.forming ++ [b] }, .nothing) := (hs m.forming b).trans (formByte_joins hf)
    rw [List.cons_append, take_nothing h1]
    have h2 : (m.forming ++ [b]).length + r.length ≤ 7 := by
      simp only [List.length_append, List.length_cons, List.length_nil] at h ⊢; omega
    refine (@ih { m with forming := m.forming ++ [b] } hs h2).trans ?_
    simp [List.append_assoc]

/-- The eight bits of a byte of a frame under reception are that byte, taken whole (R37). -/
theorem take_byte {m : ModemPort} {q : Nibble} {whole : Byte → ModemPort × Received}
    (hs : ∀ f b, ({ m with forming := f } : ModemPort).sample q b = ({ m with forming := f } : ModemPort).formByte b whole)
    (hf : m.forming = []) (x : Byte) (rest : List Bool) :
    m.take q (byteBits x ++ rest) = match whole x with
      | (m', .nothing) => m'.take q rest
      | (m', e) => (m', e, rest) := by
  have hx : byteBits x = (byteBits x).take 7 ++ [x.getLsbD 7] := by simp [byteBits, List.range_succ]
  have hl : ¬(m.forming ++ (byteBits x).take 7).length < 7 := by simp [hf, byteBits]
  have h7 : ({ m with forming := m.forming ++ (byteBits x).take 7 } : ModemPort).sample q (x.getLsbD 7) = whole x := by
    rw [hs]
    simp only [ModemPort.formByte, if_neg hl]
    rw [show m.forming ++ (byteBits x).take 7 ++ [x.getLsbD 7] = byteBits x by rw [hf, List.nil_append, ← hx], byteOf_byteBits]
  rw [hx, List.append_assoc, take_forming ((byteBits x).take 7) hs (by simp [hf, byteBits]), List.singleton_append]
  simp only [ModemPort.take, h7] <;> rfl

/-- In GATHERING: the byte is stored, or ends the frame (R37, R38). -/
theorem take_gathered {m : ModemPort} {k : Fin 2} (h : m.assembler = .gathering k) (hf : m.forming = []) (q : Nibble) (x : Byte)
    (rest : List Bool) :
    m.take q (byteBits x ++ rest) = match m.gatherByte k q x with
      | (m', .nothing) => m'.take q rest
      | (m', e) => (m', e, rest) :=
  take_byte (fun f b => sample_gathering (m := { m with forming := f }) h q b) hf x rest

/-- In SKIPPING: the byte is counted off, or ends the skip (R40). -/
theorem take_skipped {m : ModemPort} {n : Nat} (h : m.assembler = .skipping n) (hf : m.forming = []) (q : Nibble) (x : Byte)
    (rest : List Bool) :
    m.take q (byteBits x ++ rest) = match m.skipByte n x with
      | (m', .nothing) => m'.take q rest
      | (m', e) => (m', e, rest) :=
  take_byte (fun f b => sample_skipping (m := { m with forming := f }) h q b) hf x rest

/-! ### The rows -/

/-- What FH's counters take of a sample changes them alone. -/
theorem reportReceived_frame (e : Received) (s : State) : (reportReceived e s).withFh s.fh = s := by
  cases e <;> rfl

/-- Samples that do not bring the row's event with the last of them leave the part as it is (n3). -/
theorem rxcBrings_nothing {row : Received → Bool} {q : Nibble} {samples : List Bool} {s : State}
    (h : row (s.mp.take q samples).2.1 = false ∨ s.pins.dcd = false) : rxcBrings row q samples s = s := by
  rcases h with h | h <;> simp [rxcBrings, h]

/-- An edge of RXC with the watch running and no loss reported restarts the watch alone (R46). -/
theorem rxEdge_restarts {s : State} (hl : s.ol.phase = .live) (hd : s.pins.dcd = true) (hx : s.ofm.rxLoss = false) :
    rxEdge s = s.withMp { s.mp with rxWatch := some s.now } := by
  simp [rxEdge, State.isLive, hl, hd, hx]

/-- An edge of TXC with the watch running and no loss reported restarts the watch alone (R47). -/
theorem txEdge_restarts {s : State} (hp : s.ptt = true) (hx : s.ofm.txLoss = false) :
    txEdge s = s.withMp { s.mp with txWatch := some s.now } := by
  simp [txEdge, hp, hx]

/-- Driving a bit that is not the frame's last changes TXD and the position alone (R43). -/
theorem driveBit_goesOn {f : TxFrame} {s : State} (h : f.position + 1 < f.bits.length) :
    driveBit f s = s.withMp (s.mp.driveFrame f) := by simp [driveBit, h]

/-- The bits of a frame, eight for each of its bytes. -/
theorem frameBits_length (bytes : List Byte) : (frameBits bytes).length = 8 * bytes.length := by
  induction bytes with
  | nil => rfl
  | cons b r ih =>
    have : frameBits (b :: r) = byteBits b ++ frameBits r := rfl
    rw [this, List.length_append, ih, List.length_cons]; simp [byteBits]; omega

end Sys2Proof.Machine
end

