-- ==== Sys2Proof/Laws/Clock.lean ====
section
/-! SUPPORT. Time that passes: what the clock and the window ends on its way change. -/

namespace Sys2Proof.Machine

/-! ### Within a window -/

theorem runTo_past {t : Nat} {s : State} (h : t ≤ s.now) : runTo t s = s := by simp [runTo, h]

/-- Within a window the clock moves and carrier time is counted; nothing else changes. -/
theorem runTo_frame (t : Nat) (s : State) :
    ((runTo t s).withNow s.now).withOfm { (runTo t s).ofm with window := s.ofm.window } = s := by
  unfold runTo; split <;> rfl

theorem runTo_now (t : Nat) (s : State) : (runTo t s).now = max s.now t := by
  unfold runTo
  split
  · omega
  · simp; omega

/-! ### Window ends -/

/-- What time that passes can change: the clock, the Monitor, the notices and AC's evaluation. -/
structure Passed (s t : State) : Prop where
  pending : t.pending = s.pending
  pins : t.pins = s.pins
  mp : t.mp = s.mp
  fh : t.fh = s.fh
  ms : t.ms = s.ms
  idt : t.idt = s.idt
  dt : t.dt = s.dt
  du : t.du = s.du
  line : { t.ol with notices := s.ol.notices } = s.ol
  queues : t.ac.queues = s.ac.queues

theorem Passed.refl (s : State) : Passed s s := ⟨rfl, rfl, rfl, rfl, rfl, rfl, rfl, rfl, rfl, rfl⟩

theorem Passed.trans {s t u : State} (h : Passed s t) (g : Passed t u) : Passed s u where
  pending := g.pending.trans h.pending
  pins := g.pins.trans h.pins
  mp := g.mp.trans h.mp
  fh := g.fh.trans h.fh
  ms := g.ms.trans h.ms
  idt := g.idt.trans h.idt
  dt := g.dt.trans h.dt
  du := g.du.trans h.du
  line := (congrArg (fun o => { o with notices := s.ol.notices }) g.line).trans h.line
  queues := g.queues.trans h.queues

theorem passed_ofm (s : State) (x : Monitor) : Passed s (s.withOfm x) := ⟨rfl, rfl, rfl, rfl, rfl, rfl, rfl, rfl, rfl, rfl⟩

theorem passed_runTo (t : Nat) (s : State) : Passed s (runTo t s) := by
  unfold runTo; split
  · exact .refl s
  · exact ⟨rfl, rfl, rfl, rfl, rfl, rfl, rfl, rfl, rfl, rfl⟩

theorem passed_raiseFault (f : ChannelFault) (s : State) : Passed s (raiseFault f s) := by
  unfold raiseFault raiseNotice
  dsimp only
  (repeat' split) <;> exact ⟨rfl, rfl, rfl, rfl, rfl, rfl, rfl, rfl, rfl, rfl⟩

theorem passed_evaluate (s : State) : Passed s (evaluate s) :=
  ⟨rfl, rfl, rfl, rfl, rfl, rfl, rfl, rfl, rfl, (evaluatedAc_frame s).1⟩

theorem passed_windowFaults (w : Window) (s : State) : Passed s (windowFaults w s) := by
  have h : Passed s (if isStorm w.frames w.failed then raiseFault .checkStorm s else clearLive .checkStorm s) := by
    split
    · exact passed_raiseFault _ _
    · exact passed_ofm _ _
  unfold windowFaults
  dsimp only
  generalize (if isStorm w.frames w.failed = true then raiseFault .checkStorm s else clearLive .checkStorm s) = u at h ⊢
  refine h.trans ?_
  generalize (if (w.throughout && !w.accepted) = true then min 8 (u.ofm.stuckRun + 1) else 0) = n
  split
  · exact (passed_ofm _ _).trans (passed_raiseFault _ _)
  · exact passed_ofm _ _

/-- The end of a window changes the Monitor and the notices alone. -/
theorem passed_endWindow (w : Window) (s : State) : Passed s (endWindow w s) := by
  unfold endWindow
  dsimp only
  have h := (passed_ofm s { s.ofm with history := s.ofm.history.drop 1 ++ [⟨w.carrierMs, w.frames, w.failed⟩] }).trans
    (passed_windowFaults w _)
  generalize windowFaults w _ = u at h ⊢
  refine h.trans (Passed.trans (t := if u.frozen then u else recomputeU u) ?_ (passed_ofm _ _))
  split
  · exact .refl _
  · exact passed_ofm _ _

theorem passed_windowEnds (s : State) : Passed s (windowEnds s) := by
  unfold windowEnds; split
  · exact passed_endWindow _ _
  · exact .refl s

theorem passed_windowPasses (s : State) : Passed s (windowPasses s) := by
  unfold windowPasses; split
  · exact (passed_runTo _ _).trans ((passed_windowEnds _).trans (passed_evaluate _))
  · exact .refl s

theorem passed_passEnds (t n : Nat) (s : State) : Passed s (passEnds t n s) := by
  induction n generalizing s with
  | zero => exact .refl s
  | succ n ih =>
    unfold passEnds
    split
    · split
      · exact (passed_windowPasses s).trans (ih _)
      · exact .refl s
    · exact .refl s

/-! ### The clock -/

theorem advance_past {t : Nat} {s : State} (h : t ≤ s.now) : advance t s = s := by simp [advance, h]

@[simp] theorem advanceTo_some (t : Nat) (s : State) : advanceTo (some t) s = advance t s := rfl

@[simp] theorem advanceTo_none (s : State) : advanceTo none s = s := rfl

/-- Time that passes changes the clock, the Monitor, the notices and AC's evaluation, nothing else. -/
theorem passed_advance (t : Nat) (s : State) : Passed s (advance t s) := by
  unfold advance; split
  · exact .refl s
  · exact (passed_passEnds t _ s).trans (passed_runTo _ _)

/-- Before the end of the window under way, time passes within it. -/
theorem advance_within {t : Nat} {s : State} (h : ∀ w, s.ofm.window = some w → t ≤ w.endsAt) (hw : 0 < s.ol.settings.window) :
    advance t s = runTo t s := by
  have he : endsBefore t s = 0 := by
    unfold endsBefore
    split
    · rename_i w hs
      have := h w hs
      exact Nat.div_eq_of_lt (by omega)
    · rfl
  unfold advance
  split
  · rename_i hp; exact (runTo_past hp).symm
  · rw [he]; rfl

@[simp] theorem advance_pending (t : Nat) (s : State) : (advance t s).pending = s.pending := (passed_advance t s).pending
@[simp] theorem advance_pins (t : Nat) (s : State) : (advance t s).pins = s.pins := (passed_advance t s).pins
@[simp] theorem advance_mp (t : Nat) (s : State) : (advance t s).mp = s.mp := (passed_advance t s).mp
@[simp] theorem advance_fh (t : Nat) (s : State) : (advance t s).fh = s.fh := (passed_advance t s).fh
@[simp] theorem advance_ms (t : Nat) (s : State) : (advance t s).ms = s.ms := (passed_advance t s).ms
@[simp] theorem advance_idt (t : Nat) (s : State) : (advance t s).idt = s.idt := (passed_advance t s).idt
@[simp] theorem advance_dt (t : Nat) (s : State) : (advance t s).dt = s.dt := (passed_advance t s).dt
@[simp] theorem advance_du (t : Nat) (s : State) : (advance t s).du = s.du := (passed_advance t s).du
@[simp] theorem advance_queues (t : Nat) (s : State) : (advance t s).ac.queues = s.ac.queues := (passed_advance t s).queues

end Sys2Proof.Machine
end

