-- ==== Sys2Proof/Laws/Identities.lean ====
section
/-! SUPPORT. The Identity Table: reading after a write in place, what an insert leaves, when it fails. -/

namespace Sys2Proof.Machine

theorem look_place_cases {α : Type} {n : Nat} (v : Vector α n) (i j : Fin n) (x : α) :
    look (place v i x) j = if j = i then x else look v j := by
  split
  next h => rw [h, look_place_same]
  next h => exact look_place_other v x h

@[simp] theorem at_put_same (t : IdTable) (p : Spot) (e : Option Entry) : (t.put p e).at p = e := by
  cases p <;> simp [IdTable.put, IdTable.at]

theorem at_put_other {t : IdTable} {p q : Spot} {e : Option Entry} (h : q ≠ p) : (t.put p e).at q = t.at q := by
  cases p <;> cases q <;> simp only [IdTable.put, IdTable.at, look_place_cases] <;> (split <;> simp_all)

theorem walk_next {v w : Vector Overflow 256} (h : ∀ x, (look v x).next = (look w x).next) :
    ∀ (n : Nat) (x : Option (Fin 256)), walk v n x = walk w n x
  | 0, _ => rfl
  | _ + 1, none => rfl
  | n + 1, some x => by simp only [walk, h x, walk_next h n]

/-- An entry written in place moves no entry. -/
@[simp] theorem spots_put (t : IdTable) (p : Spot) (e : Option Entry) (b : Fin 512) : (t.put p e).spots b = t.spots b := by
  have hh : (look (t.put p e).buckets b).head = (look t.buckets b).head := by
    cases p <;> simp only [IdTable.put, look_place_cases] <;> (try split) <;> simp_all
  have hn : ∀ x, (look (t.put p e).overflow x).next = (look t.overflow x).next := by
    intro x; cases p <;> simp only [IdTable.put, look_place_cases] <;> (try split) <;> simp_all
  simp only [IdTable.spots, IdTable.chain, hh, walk_next hn]

/-- The one element of a list that passes a test is the one that is found. -/
theorem find?_only {α : Type} {f : α → Bool} {p : α} : ∀ {l : List α}, p ∈ l → f p = true → (∀ x ∈ l, x ≠ p → f x = false) →
    l.find? f = some p
  | [], h, _, _ => nomatch h
  | a :: l, h, hp, ho => by
    by_cases ha : a = p
    · simp [ha, hp]
    · rw [List.find?_cons_of_neg (by simp [ho a (List.mem_cons_self ..) ha])]
      exact find?_only ((List.mem_cons.1 h).resolve_left fun e => ha e.symm) hp fun x hx => ho x (List.mem_cons_of_mem _ hx)

/-- Where no entry of an identity stands, one written at a place of its bucket is the one that a lookup finds. -/
theorem entry_put {t : IdTable} {i : Identity} {p : Spot} {e : Entry} (hn : t.find i = none) (hp : p ∈ t.spots (bucketOf i))
    (he : e.id = i) : (t.put p (some e)).entry i = some e := by
  have hf : (t.put p (some e)).find i = some p := by
    unfold IdTable.find at hn ⊢
    rw [spots_put]
    refine find?_only hp (by simp [IdTable.holds, he]) fun x hx hxp => ?_
    have h := List.find?_eq_none.1 hn x hx
    unfold IdTable.holds at h ⊢
    rw [at_put_other hxp]
    exact Bool.not_eq_true _ ▸ h
  rw [IdTable.entry, hf, Option.bind_some, at_put_same]

theorem evictee_mem {t : IdTable} {b : Fin 512} {p : Spot} (h : t.evictee b = some p) : p ∈ t.spots b := by
  have hm : ∀ (l : List Spot) (best : Option (Spot × Nat)),
      ∀ x, l.foldl (olderSpot t) best = some x → x.1 ∈ l ∨ best = some x := by
    intro l
    induction l with
    | nil => intro best x hx; exact Or.inr hx
    | cons a l ih =>
      intro best x hx
      rcases ih _ x hx with h | h
      · exact Or.inl (List.mem_cons_of_mem _ h)
      · unfold olderSpot at h
        (repeat' split at h) <;> first
          | exact Or.inr h
          | (cases h; exact Or.inl (List.mem_cons_self ..))
  unfold IdTable.evictee at h
  obtain ⟨x, hx, rfl⟩ := Option.map_eq_some_iff.1 h
  exact (hm _ _ x hx).resolve_right (fun e => nomatch e)

/-- After an insert that succeeds, a lookup finds the new entry (R95, R96). -/
theorem entry_inserted {t u : IdTable} {i : Identity} {d : Disposition} {o : Bool} (h : t.insert i d o = .inserted u) :
    u.entry i = some (t.newEntry i d o) := by
  have hn : t.find i = none := by
    cases hf : t.find i with
    | none => rfl
    | some p => simp [IdTable.insert, hf] at h
  simp only [IdTable.insert, hn] at h
  split at h
  · cases h; exact entry_put hn (by simp [IdTable.spots]) rfl
  · split at h
    · cases h; exact entry_put hn (by simp [IdTable.spots]) rfl
    · split at h
      next x rest _ =>
        cases h
        have hs : (t.pushOverflow (bucketOf i) x rest (t.newEntry i d o)).find i = some (.overflow x) := by
          have ha := List.find?_eq_none.1 hn (.primA (bucketOf i)) (by simp [IdTable.spots])
          have hb := List.find?_eq_none.1 hn (.primB (bucketOf i)) (by simp [IdTable.spots])
          have hA : (t.pushOverflow (bucketOf i) x rest (t.newEntry i d o)).holds i (.primA (bucketOf i)) = false := by
            simpa [IdTable.holds, IdTable.at, IdTable.pushOverflow] using ha
          have hB : (t.pushOverflow (bucketOf i) x rest (t.newEntry i d o)).holds i (.primB (bucketOf i)) = false := by
            simpa [IdTable.holds, IdTable.at, IdTable.pushOverflow] using hb
          have hX : (t.pushOverflow (bucketOf i) x rest (t.newEntry i d o)).holds i (.overflow x) = true := by
            simp [IdTable.holds, IdTable.at, IdTable.pushOverflow, IdTable.newEntry]
          simp only [IdTable.find, IdTable.spots, List.find?_cons, hA, hB]
          simp only [IdTable.chain]
          rw [show (look (t.pushOverflow (bucketOf i) x rest (t.newEntry i d o)).buckets (bucketOf i)).head = some x by
            simp [IdTable.pushOverflow]]
          simp [walk, hX]
        rw [IdTable.entry, hs]; simp [IdTable.at, IdTable.pushOverflow]
      next =>
        split at h
        next p hp => cases h; exact entry_put hn (evictee_mem hp) rfl
        next => cases h

/-- Whether an insert fails does not hang on the disposition. -/
theorem insert_failed_disposition {t : IdTable} {i : Identity} {d d' : Disposition} {o o' : Bool} (h : t.insert i d o = .failed) :
    t.insert i d' o' = .failed := by
  simp only [IdTable.insert] at h ⊢
  (repeat' split at h) <;> first
    | (cases h; done)
    | (rename_i hn hA hB _ hF _ hE; exact (if_neg hA).trans (if_neg hB))

/-- An insert fails where no place is free and every entry of the bucket is linked (R97). -/
theorem insert_fails {t : IdTable} {i : Identity} {d : Disposition} {o : Bool} (hn : t.find i = none) (hf : t.free = [])
    (hl : ∀ p ∈ t.spots (bucketOf i), ∃ e, t.at p = some e ∧ e.link ≠ none) : t.insert i d o = .failed := by
  have hE : t.evictee (bucketOf i) = none := by
    have h : ∀ l : List Spot, (∀ p ∈ l, ∃ e, t.at p = some e ∧ e.link ≠ none) → l.foldl (olderSpot t) none = none := by
      intro l
      induction l with
      | nil => intro _; rfl
      | cons a l ih =>
        intro h
        obtain ⟨e, he, hk⟩ := h a (List.mem_cons_self ..)
        rw [List.foldl_cons, show olderSpot t none a = none by simp [olderSpot, he, Option.isSome_iff_ne_none.2 hk]]
        exact ih fun p hp => h p (List.mem_cons_of_mem _ hp)
    rw [IdTable.evictee, h _ hl]; rfl
  have hA : ¬(look t.buckets (bucketOf i)).primA.isNone = true := by
    obtain ⟨e, he, _⟩ := hl (.primA (bucketOf i)) (by simp [IdTable.spots])
    rw [show (look t.buckets (bucketOf i)).primA = some e from he]; simp
  have hB : ¬(look t.buckets (bucketOf i)).primB.isNone = true := by
    obtain ⟨e, he, _⟩ := hl (.primB (bucketOf i)) (by simp [IdTable.spots])
    rw [show (look t.buckets (bucketOf i)).primB = some e from he]; simp
  simp only [IdTable.insert, hn, hf, hE]
  exact (if_neg hA).trans (if_neg hB)

end Sys2Proof.Machine
end

