-- ==== Sys2Proof/Laws/Blocks.lean ====
section
/-! SUPPORT. Operations built on the shared ones, block by block: what each touches. Close such goals with `simp only` over the updaters, not with `rfl`: unfolding a whole state by `rfl` is slow. -/

namespace Sys2Proof.Machine

/-! ### Operator Line -/

/-- A command line is not taken while the last taken command's answer waits for room or a body is collected. -/
theorem command_waits {c : Instr} {need : Option Phase} {act : State → State} {s : State}
    (h : s.ol.answered = false ∨ s.ol.post ≠ none) : command c need act s = s := by
  have hc : (s.ol.answered && s.ol.post.isNone) = false := by
    rcases h with h | h
    · simp [h]
    · cases hp : s.ol.post
      · exact absurd hp h
      · simp
  simp only [command, hc, Bool.false_eq_true, if_false]

/-- The tests that come before a command's own rule. -/
theorem command_tests {c : Instr} {need : Option Phase} {act : State → State} {s : State} (hw : s.ol.answered = true)
    (hp : s.ol.post = none) :
    command c need act s =
      if s.ol.selfTest.isSome then refuse .busy (s.withOl (s.ol.takeLine c))
      else if wrongPhase need s then refuse .stateCode (s.withOl (s.ol.takeLine c))
      else act (s.withOl (s.ol.takeLine c)) := by
  have hph : wrongPhase need (s.withOl (s.ol.takeLine c)) = wrongPhase need s := by cases need <;> simp [wrongPhase]
  simp [command, hw, hp, hph]

/-- Taking a line keeps everything but the input lines and ORDY. -/
theorem takeLine_frame (o : OperatorLine) (c : Instr) : { o.takeLine c with lines := o.lines, ordy := o.ordy } = o := by
  unfold OperatorLine.takeLine; split <;> rfl

/-- Taking a line keeps the input buffer within its size. -/
theorem takeLine_input (o : OperatorLine) (c : Instr) : (o.takeLine c).inputCount ≤ o.inputCount := by
  unfold OperatorLine.takeLine
  split
  · cases hl : o.lines <;> simp [OperatorLine.afterTake, OperatorLine.inputCount, hl]
  · exact Nat.le_refl _

/-! ### Frames -/

/-- The register after a sequence of bytes is the bytes taken one after another. -/
theorem crcFrom_eq_foldl (r : BitVec 16) (bytes : List Byte) : crcFrom r bytes = bytes.foldl crcByte r := by
  induction bytes generalizing r with
  | nil => rfl
  | cons b rest ih =>
    simp only [crcFrom, List.foldl_cons]
    split
    · rename_i h; rw [ih, show crcByte r b = 0 from BitVec.eq_of_toNat_eq h]
    · rename_i n h; rw [ih, show n + 1 = (crcByte r b).toNat from h.symm, BitVec.ofNat_toNat, BitVec.setWidth_eq]

/-! ### Frame Handler and Monitor -/

theorem reportDropped_frame (s : State) :
    ((reportDropped s).withFh s.fh).withOl { (reportDropped s).ol with notices := s.ol.notices } = s := by
  simp only [reportDropped, raiseNotice, countDropped, State.withFh, State.withOl]

theorem reportCompleted_frame (b : Bool) (s : State) :
    (reportCompleted b s).withOfm { (reportCompleted b s).ofm with window := s.ofm.window } = s := by
  simp only [reportCompleted, State.withOfm]

/-! ### Message Store -/

/-- Freed with its count and notice: the blocks a victim touches. -/
theorem evict_frame (i : Fin 64) (s : State) :
    (((((evict i s).withMs s.ms).withIdt s.idt).withAc s.ac).withFh s.fh).withOl { (evict i s).ol with notices := s.ol.notices }
      = s := by
  simp only [evict, reportDropped, raiseNotice, countDropped, freeSlot]
  split
  · simp only [State.withMs, State.withIdt, State.withAc, State.withFh, State.withOl]
  · split <;> simp only [dequeue, evaluate, State.withMs, State.withIdt, State.withAc, State.withFh, State.withOl]

/-- A slot that enters its queue: the store and the Access Controller change, nothing else. -/
theorem toQueueTail_frame (i : Fin 64) (s : State) : ((toQueueTail i s).withMs s.ms).withAc s.ac = s := by
  unfold toQueueTail
  split <;> simp only [enqueueTail, evaluate, modSlot, State.withMs, State.withAc]

/-- Noting victims changes nothing but the note. -/
theorem noteVictims_frame (m : Store) (now : Nat) (vs : List (Fin 64)) :
    { m.noteVictims now vs with evictedAt := m.evictedAt, evicted := m.evicted } = m := by
  unfold Store.noteVictims; split <;> rfl

@[simp] theorem noteVictims_slots (m : Store) (now : Nat) (vs : List (Fin 64)) : (m.noteVictims now vs).slots = m.slots := by
  unfold Store.noteVictims; split <;> rfl

@[simp] theorem noteVictims_free (m : Store) (now : Nat) (vs : List (Fin 64)) : (m.noteVictims now vs).free = m.free := by
  unfold Store.noteVictims; split <;> rfl

@[simp] theorem noteVictims_nothing (m : Store) (now : Nat) : m.noteVictims now [] = m := rfl

/-- The slots noted as evicted at a moment are those noted at it before and the victims that could stand down. -/
theorem mem_noteVictims {m : Store} {now : Nat} {vs : List (Fin 64)} {x : Slot} :
    ((m.noteVictims now vs).evictedAt = now ∧ x ∈ (m.noteVictims now vs).evicted) ↔
      (m.evictedAt = now ∧ x ∈ m.evicted) ∨ ∃ i ∈ vs, look m.slots i = some x ∧ x.mayStandDown = true := by
  have hm : x ∈ vs.filterMap (fun i => (look m.slots i).filter Slot.mayStandDown) ↔
      ∃ i ∈ vs, look m.slots i = some x ∧ x.mayStandDown = true := by
    simp only [List.mem_filterMap, Option.filter_eq_some_iff]
  rw [← hm]
  unfold Store.noteVictims
  split
  next h => simp [h]
  next l h => by_cases e : m.evictedAt = now <;> simp [e]

/-- What a stand-down asks of a copy (R125 to R127). -/
theorem standsDown_iff {sl : Slot} {h : Header} {t : Traffic} {d : Nibble} {s : State} :
    sl.standsDown h t d s = true ↔ sl.mayStandDown = true ∧ qualifies h.congested t.used h.dist (sl.used.toNat + 1) d = true
      ∧ redundancy s sl.cls ≤ (addHeard sl.heard h.sender).length := by
  simp [Slot.standsDown, and_assoc]

/-- After its moment an eviction has no bearing on a copy (R78). -/
theorem standDownTooLate_later {h : Header} {t : Traffic} {s : State} (hn : s.ms.evictedAt ≠ s.now) :
    standDownTooLate h t s = false := by simp [standDownTooLate, hn]

/-- A POST that the store cannot meet is refused with nothing noted (R77, step 4). -/
theorem allocatePost_none {p : MsgClass} {n : Nat} {s : State} (h : s.ms.plan p 1 n = none) : allocatePost p n s = none := by
  simp [allocatePost, allocate, h]

theorem requeueOnAir_frame (b : Bool) (s : State) : ((requeueOnAir b s).withMs s.ms).withAc s.ac = s := by
  unfold requeueOnAir
  split
  · simp only [State.withMs, State.withAc]
  · split <;> simp only [enqueueHead, evaluate, modSlot, State.withMs, State.withAc]

/-- A segment attached takes the head of the free list. -/
theorem attach_held {m : Store} {i : Fin 64} {index : Fin 8} {data : List Byte} {b : Fin 384} {rest : List (Fin 384)} {sl : Slot}
    (hf : m.free = b :: rest) (hs : look m.slots i = some sl) (hn : look sl.blocks index = none) :
    m.attach i index data = { m with
      slots := place m.slots i (some { sl with blocks := place sl.blocks index (some b) })
      blocks := place m.blocks b (writeBlock (look m.blocks b) data)
      free := rest } := by
  simp [Store.attach, hf, hs, hn]

/-! ### Delivery Unit -/

theorem withPool_frame (pool : List Receipt) (s : State) :
    ((withPool pool s).withDu s.du).withAc s.ac = s ∧ (withPool pool s).du = { s.du with pool := pool } := ⟨rfl, rfl⟩

/-- A record that joins a pool with room. -/
theorem admit_room {r : Receipt} {s : State} (h : poolHas s.du.pool r.id = false) (hr : s.du.pool.length < Config.poolSize) :
    admitReceipt r s = withPool (s.du.pool ++ [r]) s := by
  simp [admitReceipt, h, hr]

/-- A record of an identity that the pool holds already changes nothing. -/
theorem admit_known {r : Receipt} {s : State} (h : poolHas s.du.pool r.id = true) : admitReceipt r s = s := by
  simp [admitReceipt, h]

/-! ### Channel restart -/

/-- The second of two restarts that arrive together (R150). -/
theorem restart_again {s : State} (hp : s.ptt = false) (hj : s.ac.justRestarted s.now = true) :
    restartChannel s = (restartReceiver s).withAc { s.ac with identDue := true } := by simp [restartChannel, hp, hj]

/-- Any other restart that finds AC not KEYED (R150). -/
theorem restart_unkeyed {s : State} (hp : s.ptt = false) (hj : s.ac.justRestarted s.now = false) :
    restartChannel s = restartAccess (restartReceiver s) := by simp [restartChannel, hp, hj]

/-- A restart leaves AC such that another at the same moment finds it so, until a value is drawn. -/
theorem restartAccess_just (s : State) : (restartAccess s).ac.justRestarted s.now = true := by
  simp [restartAccess, AccessController.justRestarted, evaluateFresh, evaluate]

/-! ### Modem Port -/

/-- Emptying the hunting register keeps everything else of the port but the assembler's state and the byte being formed. -/
theorem hunt_frame (m : ModemPort) (a : Assembler) :
    { m.hunt a with assembler := m.assembler, huntBits := m.huntBits, huntCount := m.huntCount, forming := m.forming } = m := rfl

/-- After unkeying, PTT is deasserted, TXD is 1, and no transmit timer runs. -/
theorem unkey_port (s : State) :
    (unkey s).mp = { s.mp.hunt (if s.ol.phase = .live then .hunting else .off) with
      key := .unkeyed, txd := true, frame := none, keyupEnd := none, limitEnd := none, txWatch := none } := by
  simp only [unkey, reportClocks]
  split
  · have h := fun f s => congrArg State.mp (raiseFault_frame f s)
    simp only [withOl_mp, withOfm_mp] at h
    rw [h]; rfl
  · rfl

end Sys2Proof.Machine
end

