-- ==== Sys2Proof/Tests/Slice0.lean ====
section
/-! SUPPORT. The model's own tests: ill-formed terms refused, the spec's worked values, and for every statement with hypotheses a state that meets them. -/

namespace Sys2Proof.Tests

open Sys2Proof Sys2Proof.Machine

set_option Elab.async false

/-! ## Well-formedness -/

theorem test_wf_wordEmpty : (Instr.code [[]]).wf = false := by decide
theorem test_wf_wordSpace : (Instr.call [[0x41, 0x20]]).wf = false := by decide
theorem test_wf_wordReturn : (Instr.pin [[0x0D]]).wf = false := by decide
theorem test_wf_wordsTooLong : (Instr.post [List.replicate 152 0x41]).wf = false := by decide +kernel
theorem test_wf_wordsLongest : (Instr.post [List.replicate 151 0x41]).wf = true := by decide +kernel
theorem test_wf_lineTooLong : (Instr.unknownCommand ⟨List.replicate 161 0x41, false, true⟩).wf = false := by decide +kernel
theorem test_wf_lineReturn : (Instr.unknownCommand ⟨[0x0D], false, false⟩).wf = false := by decide
theorem test_wf_bodyLineClosing : (Instr.bodyLine ⟨[0x2E], false, false⟩).wf = false := by decide
theorem test_wf_bodyLineMarked : (Instr.bodyLine ⟨[0x2E], true, false⟩).wf = true := by decide
theorem test_wf_noSamples :
    (Instr.syncFound []).wf = false ∧ (Instr.frameAbandoned []).wf = false ∧ (Instr.skippedFramePassed []).wf = false
      ∧ (Instr.frameCompletes [] 0).wf = false ∧ Instr.syncFound.wf = true := by decide
theorem test_wf_receiptOrigin : (Instr.receiptDeadlineExpiry ⟨0, 5⟩).wf = false := by decide
theorem test_wf_receiptOriginSpecial :
    (Instr.receiptDeadlineExpiry ⟨4094, 5⟩).wf = false ∧ (Instr.receiptDeadlineExpiry ⟨4095, 5⟩).wf = false := by decide

/-! ## The spec's worked values -/

/-- R17: the check of the nine digits. -/
theorem test_crc_digits : crc (txt "123456789") = 0x906E := by decide +kernel
/-- Chapter 8's three worked counts. -/
theorem test_contention_worked :
    contentionCount .urgent 11 (some 2) 37 679 4660 = 21 ∧ contentionCount .routine 15 none 100 1 1 = 63
      ∧ contentionCount .life 2 (some 5) 80 1460 310 = 4 := by decide +kernel
/-- Chapter 9's draws of station 679. -/
theorem test_draws_679 :
    nextRegister 0x02A7 = 0xB553 ∧ nextRegister 0xB553 = 0xEEA9 ∧ nextRegister 0xEEA9 = 0xC354 ∧ nextRegister 0xC354 = 0x61AA
      ∧ accessDelay .urgent 37 40 0xB553 = 40 ∧ accessDelay .welfare 55 40 0xC354 = 160 ∧ accessDelay .life 55 40 0x61AA = 0
      ∧ accessDelay .routine 55 40 0x30D5 = 200 := by decide +kernel
/-- R171's example, and R114's. -/
theorem test_clamped_values :
    SettingName.slot.take 47 = 40 ∧ SettingName.window.take 50 = 100 ∧ SettingName.beacon.take 0 = 0 ∧ SettingName.hops.take 20 = 15
      ∧ clearLow 10 2000 = 1024 := by decide +kernel
/-- TEST 1 passes as built: the shared sampler takes every looped frame (R50). -/
theorem test_loopback_pass : loopbackTest = true := by decide +kernel
/-- TEST 2 passes as built (R31). -/
theorem test_frames_pass : framesTest = true := by decide +kernel

/-! ## States to test on -/

/-- After reset, "+READY" sent, SETUP. -/
def setupS : State := State.reset.withOl { OperatorLine.reset with output := [], sending := false }

/-- The operator line of station 7 in LIVE. -/
def liveOl : OperatorLine := { setupS.ol with phase := .live, ownCode := some 7, callsign := some (txt "AB1") }

/-- LIVE as station 7, its timers at 100 s, the listening period over, nothing to send. -/
def liveS : State where
  now := 100000
  pins := ⟨false, false⟩
  mp := { ModemPort.reset with assembler := .hunting }
  ofm := { Monitor.reset with window := some ⟨500, 255, 255, true, false, 100000⟩ }
  fh := FrameHandler.reset
  ms := Store.reset
  idt := { IdTable.reset with minuteAt := some 100000 }
  dt := { DistTable.reset with minuteAt := some 100000 }
  ac := { AccessController.reset with generator := some 7, identTimer := some 100000, beaconTimer := some 100000 }
  du := DeliveryUnit.reset
  ol := liveOl
  pending := []

/-- A posted message of station 7 in one segment, in block 0. -/
def slotS : Slot where
  state := .queued
  id := ⟨7, 1⟩
  dest := 1460
  cls := .urgent
  budget := 6
  used := 0
  bodyLength := 3
  count := 1
  blocks := place (Vector.replicate 8 none) 0 (some 0)
  originated := true
  relay := false
  deliverHere := false
  unread := false
  answered := false
  heard := []
  retries := 3
  resumeAt := 0
  deadline := none
  sentDist := none
  q := 0
  completion := 0

/-- The entry of that message in slot 0. -/
def entryS : Entry := ⟨⟨7, 1⟩, .stored, some 0, 0, false, true, none, false⟩

/-- LIVE with one slot held, in slot 0, and its entry. -/
def withSlot (sl : Slot) : State :=
  (liveS.withMs { Store.reset with slots := place Store.reset.slots 0 (some sl), free := (List.finRange 384).drop 1 }).withIdt
    { liveS.idt with buckets := place liveS.idt.buckets (bucketOf sl.id) ⟨some { entryS with id := sl.id }, none, none⟩ }

/-- With slot 0 at the head of its class queue. -/
def queuedS : State := (withSlot slotS).withAc { liveS.ac with queues := joinTail liveS.ac.queues .urgent 0 }

/-- Keyed, sending `f`, with slot 0 ON-AIR. -/
def keyedS (f : TxFrame) : State :=
  ((withSlot { slotS with state := .onAir }).withAc { liveS.ac with access := .keyed }).withMp
    { liveS.mp with
      assembler := .off
      key := .sending
      txd := false
      frame := some f
      limitEnd := some 100000
      txWatch := some 99980 }

/-- A full buffer 0 before an idle FH. -/
def fullS (bytes : List Byte) (s : State) : State :=
  s.withMp { s.mp with buffers := place s.mp.buffers 0 (.full bytes 9), fullOrder := [0] }

/-- Frames from station 17. -/
def headerOf (kind : Nibble) : Header := ⟨kind, false, false, 17, 3, 2⟩
def beaconF : List Byte := frameBytes (headerOf 3) (txt "ZZ9")
def trafficOf (o : Code) (n : Serial) (dest : Code) (budget used : Nibble) : Traffic := ⟨o, 1, n, dest, budget, used, 0, 3, 0, [0x41, 0x42, 0x43]⟩
def segmentT (dest : Code) (budget used : Nibble) : Traffic := ⟨29, 1, 5, dest, budget, used, 1, 65, 1, [0x41]⟩
def trafficF (t : Traffic) : List Byte := frameBytes (headerOf 1) (trafficBytes t)
def receiptF (r : ReceiptFrame) : List Byte := frameBytes (headerOf 2) (receiptBytes r)

/-! ## Witnesses: every statement's hypotheses are met -/

theorem test_witness_EmptyQueueRunsDueEventOrOneMillisecond :
    setupS.pending = [] ∧ nextEvent setupS = none
      ∧ nextEvent (setupS.withOfm { setupS.ofm with requests := 1 }) = some .channelRestart := by decide +kernel

/-- Carrier and none; a time before the window's end, at it, and beyond one and three window ends. -/
theorem test_witness_TimePassingCountsCarrierTime :
    let w (e : Nat) : Window := ⟨10, 0, 0, true, false, e⟩
    let s (e : Nat) : State := (liveS.withOfm { liveS.ofm with window := some (w e) }).withPins ⟨true, false⟩
    setupS.now < 1 ∧ setupS.ofm.window = none ∧ liveS.now < 100001 ∧ liveS.pins.dcd = false ∧ liveS.ptt = false
      ∧ (s 100030).ofm.window = some (w 100030) ∧ 0 < liveS.ol.settings.window
      ∧ (advance 100030 (s 100030)).ofm.window = some { w 100030 with carrierMs := 40 }
      ∧ (advance 100040 (s 100030)).ofm.window = some ⟨10, 0, 0, true, false, 100530⟩
      ∧ (advance 100040 (s 100030)).ofm.history.getLast? = some ⟨40, 0, 0⟩
      ∧ (advance 101040 (s 100030)).ofm.window = some ⟨10, 0, 0, true, false, 101530⟩
      ∧ (advance 101040 (s 100030)).ofm.history.drop 13 = [⟨40, 0, 0⟩, ⟨500, 0, 0⟩, ⟨500, 0, 0⟩] := by decide +kernel

/-- Windows that pass before DCD rises do not count as whole; eight after it do (R51, R60). -/
theorem test_stuck_carrier_counts_whole_windows :
    let up (s : State) : State := s.withPins ⟨true, false⟩
    (advance 104500 (up (advance 104700 liveS))).ofm.stuckRun = 0
      ∧ (advance 108999 (up (advance 104700 liveS))).ofm.faults.stuckCarrier.live = false
      ∧ (advance 109001 (up (advance 104700 liveS))).ofm.faults.stuckCarrier.live = true := by decide +kernel

/-- 255 bytes held: the last byte of room; 256: none. The 160th character of a line, and the 161st. -/
theorem test_witness_CharactersReceivedAreStoredOrMarked :
    let o (n : Nat) : OperatorLine := { setupS.ol with lines := [⟨List.replicate n 0x41, true, n, false, false⟩] }
    let p (n : Nat) : OperatorLine := { setupS.ol with typing := ⟨List.replicate n 0x41, false, n, false, false⟩ }
    (o 254).inputCount = 255 ∧ (o 255).inputCount = 256 ∧ (o 255).output.length ≤ 1024 ∧ (o 255).typing.crStored = false
      ∧ (o 255).post = none ∧ ((o 254).receive 0x41 false).inputCount = 256 ∧ ((o 255).receive 0x41 false).inputCount = 256
      ∧ ((o 190).receive 0x41 false).ordy = false ∧ ((o 189).receive 0x41 false).ordy = true
      ∧ ((o 255).receive 0x0D false).lines.length = 2
      ∧ ((p 159).receive 0x41 false).typing = ⟨List.replicate 160 0x41, false, 160, false, false⟩
      ∧ ((p 160).receive 0x41 false).typing = ⟨List.replicate 160 0x41, false, 161, false, true⟩ := by decide +kernel

theorem test_witness_OutputIsSentUnlessHeld :
    State.reset.ol.sending = true ∧ State.reset.ol.output = 0x2B :: (readyLine.drop 1) ∧ State.reset.ol.fetchLeft = none
      ∧ setupS.ol.sending = false := by decide +kernel

/-- The last character of a FETCH block, of an INBOX slot and of another. -/
theorem test_witness_lastCharacterOfFetch :
    ∀ st ∈ [SlotState.inbox, .await],
      let s := withSlot { slotS with state := st, originated := false, deliverHere := true, unread := true }
      let t := (s.withDu { s.du with fetchRef := some 0 }).withOl { s.ol with output := txt "ab", sending := true, fetchLeft := some 1 }
      t.ol.sending = true ∧ t.ol.output = 0x61 :: txt "b" ∧ t.ol.fetchLeft = some 1 ∧ t.du.fetchRef = some 0
        ∧ (look t.ms.slots 0).map Slot.state = some st := by decide +kernel

/-- The last place that a 7-character notice line and its end fit in; a masked kind; a kind that waits for its UNMASK response. -/
theorem test_witness_WaitingLinesThenNoticesArePlaced :
    let o : OperatorLine := { setupS.ol with notices := { NoticeSet.none with failed := true }, output := List.replicate 1015 0x41 }
    noticeKinds.filter (fun k => o.notices.has k && !o.masked.has k && o.unmasking != some k) = [.failed] ∧ o.waiting = []
      ∧ o.blockOpen = false ∧ o.output.length + Notice.failed.word.length + 3 = 1024
      ∧ ({ o with output := List.replicate 1016 0x41 } : OperatorLine).output.length + Notice.failed.word.length + 3 = 1025
      ∧ (∀ k ∈ noticeKinds, setupS.ol.notices.has k = true → setupS.ol.masked.has k = true)
      ∧ noticeKinds.filter (NoticeSet.has { NoticeSet.none with inboxLife := true, fault := true }) = [.inboxLife] ++ .fault :: []
      ∧ 1016 + Notice.fault.word.length + 3 = 1024 ∧ 1024 < 1016 + Notice.inboxLife.word.length + 3
      ∧ ({ o with notices := { NoticeSet.none with inboxLife := true, fault := true }, output := List.replicate 1016 0x41 } :
          OperatorLine).emittable = some .fault
      ∧ (∀ k ∈ noticeKinds, o.notices.has k = true → ({ o with unmasking := some .failed } : OperatorLine).unmasking = some k) := by
  decide +kernel

/-- A notice passes a response without room, but not the response to the UNMASK of its own kind, and no block under way. -/
theorem test_notice_passes_waiting_response :
    let o (l : Text) (u : Option Notice) : OperatorLine := { liveS.ol with
      notices := { NoticeSet.none with failed := true }, output := List.replicate 1015 0x41, waiting := [⟨l, false⟩], unmasking := u }
    (o (txt "+PURGE 0") none).emittable = some .failed ∧ (o (txt "+MASK FAILED") none).emittable = some .failed
      ∧ (o (txt "+MASK NONE") (some .inbox)).emittable = some .failed ∧ (o (txt "+MASK NONE") (some .failed)).emittable = none
      ∧ (o (txt "-BUSY") none).emittable = none
      ∧ ({ o [0x2E] none with output := List.replicate 1022 0x41, blockOpen := true } : OperatorLine).emittable = none
      ∧ (({ o [] none with waiting := answerLines [txt "+LIST", txt "LONGLINE", [0x2E]] } : OperatorLine).flush false false).blockOpen = true
      ∧ (({ o [] none with waiting := answerLines [txt "+OUTCOMES", [0x2E]] } : OperatorLine).flush false false).blockOpen = false := by
  decide +kernel

theorem test_witness_UnknownLinesAreRefusedInOrder :
    setupS.ol.answered = true ∧ setupS.ol.post = none
      ∧ (∀ l ∈ [OpLine.mk (txt "XYZ") false false, ⟨txt "STATUS", true, true⟩, ⟨txt "STATUS", false, true⟩, ⟨txt "TEST 5", false, false⟩,
          ⟨txt "  ", false, false⟩, ⟨[], false, false⟩], commandLine l = .unknownCommand l)
      ∧ words (txt " ") = [] ∧ words (txt " TEST  5") = [txt "TEST", txt "5"] ∧ upperText (txt "test") ∈ setupNames := by
  decide +kernel

theorem test_witness_CommandLineReadsBack :
    (txt "PIN") ∈ commandRows.map Prod.fst ∧ wordOk (txt "5") = true
      ∧ commandLine ⟨unwords [txt "PIN", txt "5"], false, false⟩ = .pin [txt "5"]
      ∧ wordOk (txt "4") = true ∧ parseNumber (txt "4") = some 4
      ∧ commandLine ⟨unwords [txt "TEST", txt "4", txt "X"], false, false⟩ = .test4 [txt "X"] := by decide +kernel

theorem test_witness_CommandsAreRefusedByTheFirstTest :
    commandPhase (.status []) = some none ∧ commandPhase (.code []) = some (some .setup) ∧ commandPhase (.pin []) = some (some .live)
      ∧ liveS.ol.phase ≠ .setup ∧ setupS.ol.phase ≠ .live ∧ setupS.ol.answered = true ∧ setupS.ol.post = none
      ∧ setupS.ol.selfTest = none ∧ ({ setupS.ol with selfTest := some .frames } : OperatorLine).selfTest.isSome = true
      ∧ badArgs (.code [txt "4094"]) = true ∧ badArgs (.code [txt "0"]) = true ∧ badArgs (.mask [txt "INBOX-LIFE"]) = true
      ∧ badArgs (.status [txt "X"]) = true ∧ ({ setupS.ol with waiting := [⟨txt "-BUSY", false⟩] } : OperatorLine).answered = false
      ∧ ({ setupS.ol with waiting := [⟨txt "+TEST 1 PASS", true⟩] } : OperatorLine).answered = true := by decide +kernel

/-- A SETUP command and a LIVE command can be taken (ListingsShowTheState, FaultclrClearsWhatIsNotLive and every command's own statement). -/
theorem test_canTake : CanTake .setup setupS ∧ CanTake .live liveS := ⟨⟨rfl, rfl, rfl, rfl⟩, ⟨rfl, rfl, rfl, rfl⟩⟩

theorem test_witness_CodeCallAndCentreAreSet :
    codeArg [txt "1"] = some 1 ∧ codeArg [txt "4093"] = some 4093 ∧ codeArg [txt "4094"] = none
      ∧ callArg [txt "ab1"] = some (txt "AB1") ∧ callArg [txt "KD2QRT/P41"] = some (txt "KD2QRT/P41")
      ∧ switchArg [txt "on"] = some true ∧ switchArg [txt "OFF"] = some false := by decide +kernel

theorem test_witness_NumericSettingsAreClamped :
    timingArgs [txt "slot", txt "47"] = some (.slot, 47) ∧ timingArgs [txt "BEACON", txt "0"] = some (.beacon, 0)
      ∧ oneNumber [txt "16"] = some 16 ∧ oneNumber [txt "0"] = some 0 ∧ SettingName.keyup.take 9 = 10
      ∧ SettingName.keyup.take 1001 = 1000 ∧ SettingName.keyup.take 1000 = 1000 := by decide +kernel

theorem test_witness_ClassSettingsAreTaken :
    classArgs [txt "LIFE", txt "PREEMPT", txt "OFF"] = some (.life, some false, none)
      ∧ classArgs [txt "urgent", txt "redundancy", txt "4", txt "preempt", txt "off"] = some (.urgent, some false, some 4)
      ∧ classArgs [txt "ROUTINE"] = some (.routine, none, none) := by decide +kernel

theorem test_witness_SpanAndFaultselAreTaken :
    spanArgs [txt "3", txt "4095", txt "11", txt "15"] = some (3, 4095, 11, 15)
      ∧ spanArgs [txt "0", txt "0", txt "1", txt "0"] = some (0, 0, 1, 0)
      ∧ faultselArgs [txt "CHECK-STORM", txt "NOTIFY", txt "RESTART"] = some (.checkStorm, true, false, true)
      ∧ faultselArgs [txt "clock-loss"] = some (.clockLoss, false, false, false) := by decide +kernel

theorem test_witness_SelfTestsStartAndReport :
    ∀ x ∈ [SelfTest.loopback, .frames, .identities, .store],
      ({ setupS.ol with selfTest := some x } : OperatorLine).selfTest = some x := by decide +kernel

theorem test_witness_OnairGoesLive :
    setupS.ol.ownCode = none ∧ ({ liveOl with phase := .setup } : OperatorLine).ownCode = some 7
      ∧ ({ liveOl with phase := .setup } : OperatorLine).callsign = some (txt "AB1") := by decide +kernel

/-- 511, 512 and 513 bytes of a body; a line that begins with "." and one that does not. -/
theorem test_witness_PostCollectsBodyLines :
    isClosing ⟨txt "..x", false, false⟩ = false ∧ isClosing ⟨txt ".", true, false⟩ = false ∧ isClosing ⟨[], false, false⟩ = false
      ∧ txt "..x" = 0x2E :: txt ".x" ∧ (∀ r ∈ [txt "x", txt ""], r.head? ≠ some 0x2E)
      ∧ (Collection.mk [] (List.replicate 511 0x41) 511 8 false false false).add ⟨txt "x", false, false⟩
        = ⟨[], List.replicate 511 0x41 ++ [0x0A], 513, 9, false, false, false⟩ := by decide +kernel

theorem test_witness_ClosingLineRefusesInOrder :
    postArgs (some 7) [txt "1460", txt "urgent"] = some (1460, .urgent, none) ∧ postArgs (some 7) [txt "7", txt "LIFE"] = none
      ∧ (∀ t ∈ [0, 513], t = 0 ∨ 512 < t) ∧ (∀ t ∈ [1, 512], t ≠ 0 ∧ t ≤ 512) ∧ liveS.ol.phase = .live ∧ setupS.ol.phase = .setup := by
  decide +kernel

/-- The blocks of the states used here are conserved. -/
theorem test_conserved : Store.reset.Conserved ∧ (withSlot slotS).ms.Conserved := by
  constructor <;> (unfold Store.Conserved; decide +kernel)

/-- LIVE with an URGENT POST of three characters to 1460 before its closing line. -/
def posting (s : State) : State :=
  s.withOl { s.ol with post := some ⟨[txt "1460", txt "urgent", txt "16"], txt "abc", 3, 1, false, false, false⟩ }

/-- A store of 48 relay copies of eight blocks each, so that no block is free. -/
def packedStore : Store := { Store.reset with
  slots := Vector.ofFn fun i : Fin 64 => if i.val < 48 then
      some { slotS with
        state := .held, id := ⟨29, BitVec.ofNat 16 (i.val + 1)⟩, cls := .routine, originated := false, relay := true
        bodyLength := 512, count := 8, blocks := Vector.ofFn fun k : Fin 8 => some (Fin.ofNat 384 (8 * i.val + k.val)) }
    else none
  free := [] }

theorem test_postReady : ∀ s ∈ [liveS, queuedS, liveS.withMs packedStore],
    PostReady (posting s) ⟨[txt "1460", txt "urgent", txt "16"], txt "abc", 3, 1, false, false, false⟩ (1460, .urgent, some 16) 7 := by
  intro s hs
  simp only [List.mem_cons, List.not_mem_nil, or_false] at hs
  rcases hs with rfl | rfl | rfl <;> exact ⟨rfl, rfl, rfl, by decide +kernel, by decide, rfl, by decide⟩

theorem test_packed_conserved : packedStore.Conserved := by unfold Store.Conserved; decide +kernel

/-- A serial that is free, one that is passed over, a victim, too few victims, and a bucket whose entries are all linked. -/
theorem test_witness_AcceptedPostIsQueued :
    let b : IdTable := { liveS.idt with
      free := []
      buckets := place liveS.idt.buckets (bucketOf ⟨7, 1⟩) ⟨some { entryS with id := ⟨7, 513⟩ }, some { entryS with id := ⟨7, 1025⟩ }, none⟩ }
    liveS.idt.find ⟨7, 1⟩ = none ∧ (look liveS.idt.buckets (bucketOf ⟨7, 1⟩)).primA = none ∧ liveS.ms.plan .urgent 1 1 = some []
      ∧ queuedS.idt.find ⟨7, 1⟩ ≠ none ∧ queuedS.idt.find ⟨7, 2⟩ = none ∧ (look queuedS.idt.buckets (bucketOf ⟨7, 2⟩)).primA = none
      ∧ packedStore.plan .urgent 1 1 = some [0] ∧ packedStore.plan .routine 1 1 = none ∧ segments 3 = 1 ∧ segments 512 = 8
      ∧ b.insert ⟨7, 1⟩ .stored true = .failed ∧ packedStore.freeSlots = 16 ∧ packedStore.plan .urgent 1 8 = some [0] := by decide +kernel

theorem test_witness_FetchShowsTheSelectedMessage :
    let s := withSlot { slotS with state := .inbox, originated := false, deliverHere := true, unread := true }
    fetchArg [] = some none ∧ fetchArg [txt "7/1"] = some (some ⟨7, 1⟩) ∧ s.du.fetchRef = none
      ∧ (s.ms.selectUnread none).map Prod.fst = some 0 ∧ (s.ms.selectUnread (some ⟨7, 1⟩)).map Prod.fst = some 0
      ∧ liveS.ms.selectUnread none = none ∧ s.ms.selectUnread (some ⟨7, 2⟩) = none ∧ (some (0 : Fin 64)).isSome = true := by
  decide +kernel

/-- The block placed; its last character being sent under OHOLD; the block not placed whole; OHOLD before that. -/
theorem test_witness_FetchCompletionReadsTheMessage :
    let s := withSlot { slotS with state := .inbox, originated := false, deliverHere := true, unread := true }
    let t (n : Option Nat) (h : Bool) : State := (((s.withDu { s.du with fetchRef := some 0 }).withPins ⟨false, h⟩).withOl
      { s.ol with output := txt "ab", sending := true, fetchLeft := n })
    (t (some 2) false).du.fetchRef = some 0 ∧ (look (t none false).ms.slots 0).isSome = true ∧ (t (some 2) false).pins.ohold = false
      ∧ (t (some 1) true).ol.sending = true ∧ (t (some 1) true).ol.fetchLeft = some 1 ∧ (t none false).ol.fetchLeft = none
      ∧ (t (some 2) true).pins.ohold = true ∧ (t (some 2) true).ol.fetchLeft ≠ some 1 ∧ liveS.du.fetchRef = none := by decide +kernel

theorem test_witness_CancelFreesThePostedMessage :
    serialArg [txt "1"] = some 1 ∧ serialArg [txt "65535"] = some 65535 ∧ queuedS.ol.ownCode = some 7
      ∧ (queuedS.ms.posted ⟨7, 1⟩).map Prod.fst = some 0 ∧ queuedS.ms.posted ⟨7, 2⟩ = none
      ∧ ((withSlot { slotS with state := .onAir }).ms.posted ⟨7, 1⟩).map (fun x => x.2.state) = some .onAir := by decide +kernel

/-- In SETUP, and with serials just outside the range. -/
theorem test_witness_CancelRefusals :
    setupS.ol.phase = .setup ∧ setupS.ol.answered = true ∧ setupS.ol.post = none ∧ setupS.ol.selfTest = none
      ∧ serialArg [txt "0"] = none ∧ serialArg [txt "65536"] = none ∧ slotS.originated = true ∧ slotS.id = ⟨7, 1⟩ := by decide +kernel

theorem test_witness_FreeingASlotFollowsItsSteps :
    look queuedS.ms.slots 0 = some slotS ∧ queuedS.idt.entry slotS.id = some entryS ∧ slotS.state = .queued
      ∧ liveS.idt.entry slotS.id = none := by decide +kernel

/-- A pinned entry, an unpinned one, and eight pins. -/
theorem test_witness_PinUnpinAndPurge :
    let t (n : Nat) : DistTable := { liveS.dt with
      singles := ⟨5, 1, 5, none, 0, false, false⟩ :: (List.range n).map fun i => ⟨BitVec.ofNat 12 (100 + i), 2, 5, none, 0, true, false⟩ }
    codeArg [txt "5"] = some 5 ∧ (t 8).single 5 = some ⟨5, 1, 5, none, 0, false, false⟩ ∧ (t 8).pinnedCount = 8 ∧ (t 7).pinnedCount = 7
      ∧ (t 8).single 6 = none ∧ ((t 8).single 100).map Single.pinned = some true := by decide +kernel

/-- A kind that is masked and one that is not; QUIET set and clear. -/
theorem test_witness_MaskQuietResumeAndRestart :
    noticeArg [txt "inbox"] = some .inbox ∧ noticeArg [txt "INBOX-LIFE"] = some .inboxLife ∧ liveS.ol.masked.has .inbox = false
      ∧ (liveS.ol.masked.put .inbox true).has .inbox = true ∧ liveS.ac.quiet = false
      ∧ (liveS.withAc { liveS.ac with quiet := true }).ac.quiet = true := by decide +kernel

theorem test_witness_EvaluationFollowsTheTests :
    let up (s : State) : State := s.withPins { s.pins with dcd := true }
    liveS.ac.access = .idle ∧ trainReady liveS = false ∧ trainReady queuedS = true ∧ barred queuedS = false
      ∧ barred (queuedS.withAc { queuedS.ac with quiet := true }) = true ∧ (up queuedS).pins.dcd = true
      ∧ trainClass (up queuedS) = .urgent ∧ queuedS.pins.dcd = false ∧ queuedS.ac.generator = some 7
      ∧ (evaluate queuedS).ac.access = .counting ∧ trainReady (evaluate queuedS) = true
      ∧ (evaluate queuedS).ac.drawClass = some (trainClass (evaluate queuedS))
      ∧ (evaluate queuedS).ac.drawClass ≠ some .life ∧ trainReady ((evaluate queuedS).withAc liveS.ac) = false := by decide +kernel

/-- The three bars, and the one that a LIFE slot lifts; the items that make a train ready, and its class from each. -/
theorem test_witness_barsAndClasses :
    let listening := liveS.withAc { liveS.ac with listenEnd := some 130000 }
    let life := listening.withAc { listening.ac with queues := joinTail listening.ac.queues .life 0 }
    let r : Receipt := ⟨⟨29, 5⟩, .welfare, 17, 6, 0, .ready 0, [], false⟩
    let pooled := liveS.withDu { liveS.du with pool := [r] }
    barred listening = true ∧ barred life = false ∧ life.ac.queues.get .life ≠ [] ∧ trainClass life = .life
      ∧ trainReady pooled = true ∧ firstReceipt pooled.du.pool = some r ∧ trainClass pooled = .welfare
      ∧ (∀ c ∈ classes, pooled.ac.queues.get c = []) ∧ firstReceipt liveS.du.pool = none ∧ trainClass liveS = .routine
      ∧ trainReady (liveS.withAc { liveS.ac with beaconDue := true }) = true := by decide +kernel

theorem test_witness_AccessDelayEndKeysUpOrIsSpent :
    let s := queuedS.withAc { queuedS.ac with access := .counting, delayEnd := some 100000, drawClass := some .urgent }
    s.ac.access = .counting ∧ s.ac.delayEnd = some 100000 ∧ 100000 ≤ s.now ∧ s.ol.phase = .live ∧ s.mp.key = .unkeyed
      ∧ trainReady s = true ∧ barred s = false ∧ s.pins.dcd = false ∧ s.ac.identDue = true ∧ headSlot s.ac.queues = some 0
      ∧ look s.ms.slots 0 = some slotS ∧ trainReady (s.withAc { s.ac with queues := ⟨[], [], [], []⟩ }) = false
      ∧ barred (s.withAc { s.ac with quiet := true }) = true := by decide +kernel

/-- A LIFE head under a live STUCK-CARRIER; a receipt READY, one WAITING and one named; no slot ON-AIR; a held segment. -/
theorem test_witness_keyings :
    let r (n : Serial) (x : ReceiptState) (b : Bool) : Receipt := ⟨⟨29, n⟩, .urgent, 17, 6, 0, x, [], b⟩
    let l := (queuedS.withAc { queuedS.ac with queues := joinTail liveS.ac.queues .life 0 }).withOfm
      { queuedS.ofm with faults := queuedS.ofm.faults.set .stuckCarrier ⟨true, true, true, false, false⟩ }
    trainClass l = .life ∧ l.ofm.faults.stuckCarrier.live = true
      ∧ (firstReceipt [r 1 (.ready 9) true, r 2 (.waiting 3) false, r 3 (.ready 8) false, r 4 (.ready 7) false]).map Receipt.id = some ⟨29, 4⟩
      ∧ firstReceipt [r 1 (.ready 9) true, r 2 (.waiting 3) false] = none ∧ (∀ c ∈ classes, liveS.ac.queues.get c = [])
      ∧ queuedS.ms.onAir = none ∧ look slotS.blocks 0 = some 0 := by decide +kernel

/-- Slot 0 is the one that is ON-AIR. -/
theorem keyed_onAir (f : TxFrame) (j : Fin 64) (sj : Slot) (hj : look (keyedS f).ms.slots j = some sj) : j = 0 := by
  refine Decidable.byContradiction fun hne => ?_
  have : look (keyedS f).ms.slots j = none := by
    show look (place Store.reset.slots 0 _) j = none
    rw [look_place_other _ _ hne]; exact look_replicate _ _
  rw [this] at hj; cases hj

/-- Both ways in which a frame is the one that the next falling edge drives. -/
theorem keyed_sends (f : TxFrame) :
    Sends (keyedS f) f ∧ Sends ((keyedS f).withMp { (keyedS f).mp with key := .keyup, keyupEnd := none }) f :=
  ⟨⟨rfl, Or.inl rfl⟩, ⟨rfl, Or.inr ⟨rfl, rfl⟩⟩⟩

/-- A last segment and one that is not, with budgets on both sides of 1; a BEACON; a receipt alone; the last frame of a train. -/
theorem test_witness_FrameSentIsReportedAndFollowed :
    let f (x : TxItem) : TxFrame := ⟨x, [0x5A], 3, 1⟩
    let s := keyedS (f (.traffic 0 0))
    let b := keyedS (f .beacon)
    let r : Receipt := ⟨⟨7, 1⟩, .urgent, 17, 6, 0, .ready 0, [], true⟩
    (f .beacon).bits.getLast? = some false ∧ s.ofm.txLoss = false ∧ look s.ms.slots 0 = some { slotS with state := .onAir }
      ∧ slotS.count ≤ (0 : Fin 8).val + 1 ∧ (0 : Fin 8).val + 1 < ({ slotS with count := 2 } : Slot).count ∧ 2 ≤ slotS.budgetSent
      ∧ ({ slotS with budget := 1 } : Slot).budgetSent = 1 ∧ s.du.pool = [] ∧ s.ac.access = .keyed
      ∧ b.ms.onAir = some 0 ∧ b.ac.sent + 1 < b.ol.settings.train ∧ (∀ k ∈ classes, b.ac.queues.get k = [])
      ∧ (firstReceipt [{ r with named := false }]).isSome = true ∧ firstReceipt [r] = none ∧ [r] ≠ []
      ∧ (9 : Nat) + 1 = b.ol.settings.train ∧ MsgClass.life.num < slotS.cls.num ∧ r.named = true ∧ liveS.ms.onAir = none
      ∧ (withSlot slotS).idt.entry r.id = some entryS := by decide +kernel

/-- The Monitor of the keyed and of the live state is sound. -/
theorem test_monitorSound (f : TxFrame) : liveS.MonitorSound ∧ (keyedS f).MonitorSound := by
  have hf : ∀ c : ChannelFault, (liveS.ofm.faults.get c).live = true → (liveS.ofm.faults.get c).held = true := by
    intro c; cases c <;> decide
  have hw : ∀ w, liveS.ofm.window = some w →
      w.carrierMs ≤ 500 ∧ w.frames ≤ 255 ∧ w.failed ≤ 255 ∧ liveS.now ≤ w.endsAt := by intro w h; cases h; decide
  have hr : ∀ r ∈ liveS.ofm.history, r.carrierMs ≤ 500 := by decide
  have hc : liveS.ofm.faults.clockLoss.live = (liveS.ofm.rxLoss || liveS.ofm.txLoss) := by decide
  constructor <;> refine ⟨rfl, hr, hw, Nat.zero_le _, Nat.zero_le _, hf, hc, ?_, ?_, ?_⟩ <;> intro h <;> cases h

/-- KEYUP with its timer running and run out, SENDING, the trailer's first and last bits, and a frame before and at its last bit. -/
theorem test_witness_KeyupBeginsAndTrainEndUnkeys (f : TxFrame) :
    let s := (keyedS f).withMp { (keyedS f).mp with key := .keyup, txd := true, keyupEnd := some 100000 }
    let e (k : KeyState) := (keyedS f).withMp { (keyedS f).mp with key := k, txd := true, frame := none }
    s.mp.key = .keyup ∧ s.mp.keyupEnd = some 100000 ∧ 100000 ≤ s.now ∧ s.ofm.txLoss = false
      ∧ (e (.trailer 8)).mp.key = .trailer 8 ∧ (e .sending).mp.frame = none ∧ (e .sending).ol.phase = .live
      ∧ (e .sending).ofm.txLoss = false ∧ (0 : Nat) < 8 ∧ (keyedS f).MonitorSound :=
  ⟨rfl, rfl, Nat.le_refl _, rfl, rfl, rfl, rfl, rfl, by decide, (test_monitorSound f).2⟩

/-- 31 of the 32 bits of a frame of four bytes driven, and all but two. -/
theorem test_witness_lastBit :
    let f (n : Nat) : TxFrame := ⟨.beacon, [0x5A, 0xC3, 0x96, 0x01], 15, n⟩
    (f 31).position + 1 = (f 31).bits.length ∧ (f 30).position + 1 < (f 30).bits.length
      ∧ (f 0).bits.take 8 = [false, true, false, true, true, false, true, false] := by decide

theorem test_witness_TimeLimitCutsTheTrain :
    let s := keyedS ⟨.beacon, [], 15, 1⟩
    s.mp.limitEnd = some 100000 ∧ 100000 ≤ s.now ∧ s.mp.key ≠ .unkeyed ∧ s.ol.phase = .live ∧ s.ms.onAir = some 0
      ∧ look s.ms.slots 0 = some { slotS with state := .onAir } ∧ s.ofm.faults.txTimeout.live = false
      ∧ s.ofm.faults.txTimeout.held = false ∧ (s.withMs Store.reset).ms.onAir = none ∧ (s.withMs Store.reset).mp.key ≠ .unkeyed := by
  decide +kernel

theorem test_witness_ChannelRestartAbandonsTheChannel :
    let s := keyedS ⟨.beacon, [], 15, 1⟩
    s.ol.phase = .live ∧ s.ptt = true ∧ s.ms.onAir = some 0 ∧ liveS.ptt = false ∧ liveS.ms.onAir = none
      ∧ liveS.ac.restart ≠ some (liveS.now, liveS.ac.generator)
      ∧ (restartChannel liveS).ac.restart = some ((restartChannel liveS).now, (restartChannel liveS).ac.generator) := by decide +kernel

/-- Of two restarts at one moment the second draws nothing; one that comes later, or after a draw, does. -/
theorem test_two_restarts :
    let s := evaluate queuedS
    let a := restartChannel s
    s.ac.generator = some (nextRegister 7) ∧ a.ac.generator = some (nextRegister (nextRegister 7)) ∧ a.ac.access = .counting
      ∧ (restartChannel (a.withAc { a.ac with identDue := false })).ac = a.ac
      ∧ (restartChannel (a.withNow 100001)).ac.generator = a.ac.generator.map nextRegister
      ∧ (restartChannel (evaluateFresh a)).ac.generator = (a.ac.generator.map nextRegister).map nextRegister := by decide +kernel

theorem test_witness_CarrierRiseAbandonsTheDelay :
    (evaluate queuedS).pins.dcd = false ∧ (evaluate queuedS).ol.phase = .live ∧ (evaluate queuedS).ac.access = .counting
      ∧ trainClass (evaluate queuedS) ≠ .life := by decide +kernel

/-- Every state of the assembler; a ready train that defers. -/
theorem test_witness_CarrierFallTruncatesTheFrame :
    (∀ a ∈ [Assembler.gathering 0, .gathering 1, .skipping 0, .hunting, .off],
      let s := (liveS.withPins ⟨true, false⟩).withMp { liveS.mp with assembler := a }
      s.pins.dcd = true ∧ s.ofm.txLoss = false ∧ s.mp.assembler = a)
      ∧ (let s := evaluate (queuedS.withPins ⟨true, false⟩)
         s.ac.access = .deferring ∧ trainReady s = true ∧ s.ac.quiet = false ∧ s.ac.listenEnd = none ∧ s.ac.generator = some 7) := by
  decide +kernel

/-- Hunting with an empty register, and with all but the last bit of the sync; both buffers, one, and none EMPTY. -/
theorem test_witness_SyncClaimsABufferOrOverruns :
    let s := liveS.withPins ⟨true, false⟩
    let h := (s.mp.take 0 (Config.syncSamples.take 23)).1
    s.mp.assembler = .hunting ∧ s.pins.dcd = true ∧ s.ol.phase = .live ∧ s.ofm.rxLoss = false ∧ s.mp.huntCount = 0
      ∧ h.assembler = .hunting ∧ h.huntCount = 23 ∧ (h.huntBits <<< 1 ||| 1) = 0x5AC369 ∧ (h.huntBits <<< 1 ||| 0) ≠ 0x5AC369
      ∧ look s.mp.buffers 0 = .empty ∧ look s.mp.buffers 1 = .empty ∧ look (place s.mp.buffers 0 (.filling [])) 0 ≠ .empty
      ∧ look (place (place s.mp.buffers 0 (.filling [])) 1 (.full [] 0)) 1 ≠ .empty := by decide +kernel

/-- Bytes below, at and beyond the length byte; frames of the smallest and of another payload; lengths on both sides of 73. -/
theorem test_witness_FramesCompleteAreAbandonedOrReleased :
    let g (l : List Byte) (f : List Bool) : ModemPort :=
      { liveS.mp with assembler := .gathering 1, forming := f, buffers := place liveS.mp.buffers 1 (.filling l) }
    look (g [1] []).buffers 1 = .filling [1] ∧ (g [] []).forming = [] ∧ (g [] (List.replicate 6 true)).forming.length < 7
      ∧ (g [] (List.replicate 7 true)).forming.length = 7 ∧ payloadLength (beaconF.take 4 ++ [0x49]) = 73
      ∧ frameBytesOk beaconF = true ∧ beaconF.take 4 ++ beaconF.drop 4 = beaconF ∧ frameBytesOk (trafficF (trafficOf 29 5 1460 6 1)) = true
      ∧ 73 < payloadLength [0, 0, 0, 0, 74] ∧ ([0, 0] ++ [0, 0, 74] : List Byte).length = 5 ∧ 73 < (74 : Byte).toNat
      ∧ (0 + [0, 0, 0, 0].length = 4 ∧ 4 + ([] : List Byte).length = 4) ∧ (73 : Byte).toNat ≤ 73
      ∧ 5 + (List.replicate 75 (0 : Byte)).length = 7 + (73 : Byte).toNat
      ∧ (∀ a ∈ [Assembler.skipping 0, .skipping 5, .off], ({ liveS.mp with assembler := a } : ModemPort).assembler = a) := by decide +kernel

/-- No buffer of a state with one full frame is IN HANDLING. -/
theorem fullS_idle (bytes : List Byte) {s : State} (h : ∀ k, (look s.mp.buffers k).isHandled = false) :
    ∀ k x y, look (fullS bytes s).mp.buffers k ≠ .inHandling x y := by
  intro k x y e
  have hb : look (place s.mp.buffers 0 (.full bytes 9)) k = .inHandling x y := e
  by_cases hk : k = 0
  · subst hk; rw [look_place_same] at hb; cases hb
  · rw [look_place_other _ _ hk] at hb
    have := h k; rw [hb] at this; cases this

/-- One frame for each way that validation ends, and what the table can be taught. -/
theorem test_witness_FrameTakenValidatesInOrder :
    let s := fullS beaconF liveS
    let old : Single := ⟨17, 3, 29, none, 9, false, false⟩
    let t : DistTable := { liveS.dt with singles := [old], spans := place liveS.dt.spans 2 (some ⟨16, 4, 6⟩) }
    (∀ k, (look liveS.mp.buffers k).isHandled = false) ∧ s.mp.fullOrder = [0] ∧ look s.mp.buffers 0 = .full beaconF 9
      ∧ s.ofm.window.isSome = true ∧ checkOk beaconF = true ∧ malformed beaconF = false ∧ (parseHeader beaconF).kind = 3
      ∧ s.ol.ownCode ≠ some (parseHeader beaconF).sender ∧ checkOk (beaconF.set 3 0xFF) = false
      ∧ malformed (frameBytes (headerOf 9) []) = true ∧ checkOk (frameBytes (headerOf 9) []) = true
      ∧ (parseHeader (frameBytes { headerOf 3 with sender := 7 } (txt "ZZ9"))).sender = 7
      ∧ t.single 17 = some old ∧ t.single 18 = none ∧ (9 : Nat) < 20 / 2 ∧ (14 : Nibble).toNat + 1 = 15 ∧ (13 : Nibble).toNat + 1 < 15
      ∧ t.query (some 7) 18 = (6, t) ∧ t.query (some 7) 4094 = (15, t) ∧ t.query (some 7) 7 = (0, t) := by decide +kernel

/-- The least neighbour tier among several, one of them unknown; the cap; no neighbour tier below 15; a centre. -/
theorem test_witness_ownTier :
    let e (n : Code) (t : Option Nibble) : Single := ⟨n, 1, n, t.map fun x => ⟨x, 9⟩, 0, false, false⟩
    computeTier false [e 5 (some 4), e 6 none, e 8 (some 3), e 9 (some 15)] = 4 ∧ computeTier false [e 5 (some 14)] = 14
      ∧ computeTier false [e 5 (some 13)] = 14 ∧ computeTier false [e 5 (some 15), e 6 none] = 15
      ∧ computeTier true [e 5 (some 4)] = 0 := by decide

/-- A full table with its least recent unpinned entry in the middle. -/
theorem test_witness_fullDistanceTable :
    let e (n : Nat) (p : Bool) : Single := ⟨BitVec.ofNat 12 n, 1, 5, none, 0, p, false⟩
    let t : DistTable := { liveS.dt with singles := (List.range 40).map (e · false) ++ (List.range' 40 8).map (e · true) }
    48 ≤ t.singles.length ∧ t.singles = (List.range 39).map (e · false) ++ e 39 false :: (List.range' 40 8).map (e · true)
      ∧ (∀ z ∈ (List.range' 40 8).map (e · true), z.pinned = true) ∧ t.single 99 = none := by decide +kernel

/-- A frame accepted at station 7, of the kind and with the payload given. -/
def accepted (bytes : List Byte) (kind : Nibble) : Bool :=
  frameBytesOk bytes && checkOk bytes && !malformed bytes && (parseHeader bytes).kind == kind
    && liveS.ol.ownCode != some (parseHeader bytes).sender

/-- A state in which FH takes an accepted TRAFFIC frame. -/
theorem accepts_fullS {bytes : List Byte} {s : State} (hi : ∀ k, (look s.mp.buffers k).isHandled = false)
    (ha : accepted bytes 1 = true) (ho : s.ol.ownCode = some 7) :
    AcceptsTraffic (fullS bytes s) (parseHeader bytes) (parseTraffic (payload bytes)) 9 := by
  simp only [accepted, Bool.and_eq_true, Bool.not_eq_true', beq_iff_eq, bne_iff_ne, ne_eq] at ha
  obtain ⟨⟨⟨⟨h1, h2⟩, h3⟩, h4⟩, h5⟩ := ha
  exact ⟨0, bytes, [], fullS_idle bytes hi, rfl, look_place_same _ _ _, h1, h2, h3, rfl, h4, fun e => h5 ((show liveS.ol.ownCode = some 7 from rfl).trans (ho.symm.trans e)), rfl⟩

theorem test_witness_acceptsTraffic :
    AcceptsTraffic (fullS (trafficF (segmentT 1460 2 13)) liveS) (parseHeader (trafficF (segmentT 1460 2 13)))
      (parseTraffic (payload (trafficF (segmentT 1460 2 13)))) 9 :=
  accepts_fullS (by decide +kernel) (by decide +kernel) rfl

/-- Budgets on both sides of 1; for another station, for this one and for all; of one segment and of two; candidates and others. -/
theorem test_witness_NewSegmentsAreSeenOrAssembled :
    accepted (trafficF (segmentT 1460 2 14)) 1 = true ∧ accepted (trafficF (segmentT 1460 2 13)) 1 = true
      ∧ accepted (trafficF (segmentT 7 1 0)) 1 = true ∧ accepted (trafficF (trafficOf 29 5 1460 6 1)) 1 = true
      ∧ accepted (trafficF (trafficOf 29 5 4095 6 1)) 1 = true ∧ accepted (trafficF (trafficOf 29 5 7 6 1)) 1 = true
      ∧ parseTraffic (payload (trafficF (segmentT 1460 2 13))) = segmentT 1460 2 13
      ∧ liveS.idt.find ⟨29, 5⟩ = none ∧ (look liveS.idt.buckets (bucketOf ⟨29, 5⟩)).primA = none
      ∧ min 2 (15 - 14) = 1 ∧ min 2 (15 - 13) = 2
      ∧ (segmentT 1460 2 13).count = 2 ∧ (trafficOf 29 5 1460 6 1).count = 1 ∧ liveS.ms.lowestFree = some 0
      ∧ liveS.ms.free.head? = some 0 := by decide +kernel

theorem test_witness_destinations : ¬DeliversHere liveS 1460 ∧ DeliversHere liveS 7 ∧ DeliversHere liveS 4095 := by decide

theorem test_witness_candidates :
    RelayCandidate liveS (headerOf 1) .urgent 1460 6 [] false 15 ∧ RelayCandidate liveS (headerOf 1) .urgent 1460 6 [] true 2
      ∧ RelayCandidate liveS (headerOf 1) .routine 1460 2 [] false 2 := by decide

theorem test_witness_noCandidates :
    ¬RelayCandidate liveS (headerOf 1) .urgent 1460 6 [17] false 15 ∧ ¬RelayCandidate liveS (headerOf 1) .urgent 7 6 [] false 0
      ∧ ¬RelayCandidate liveS (headerOf 1) .urgent 1460 6 [] false 3 ∧ ¬RelayCandidate liveS (headerOf 1) .routine 1460 2 [] true 2 := by
  decide

/-- An ASSEMBLING slot with the segment present and without it, agreeing and not. -/
theorem test_witness_assembling :
    let a : Slot := { slotS with
      state := .assembling, id := ⟨29, 5⟩, originated := false, bodyLength := 65, count := 2
      blocks := place (Vector.replicate 8 none) 0 (some 0) }
    (withSlot a).idt.entry ⟨29, 5⟩ = some { entryS with id := ⟨29, 5⟩ } ∧ SameMessage a (segmentT 1460 2 13)
      ∧ ¬SameMessage { a with dest := 7 } (segmentT 1460 2 13) ∧ look a.blocks 1 = none ∧ look a.blocks 0 ≠ none := by decide +kernel

/-- LIVE with the message of slot 0 evicted by a frame, its entry left DROPPED without a slot. -/
def evictedByFrame (sl : Slot) : State := evict 0 (withSlot { sl with originated := false, relay := true })

/-- The same by a POST. -/
def evictedS (sl : Slot) : State :=
  let s := withSlot { sl with originated := false, relay := true }
  evict 0 (s.withMs (s.ms.noteVictims s.now [0]))

/-- What becomes of a copy with `used` hops used. -/
def tookCopy (h : Header) (used : Nibble) (s : State) : Option SlotState :=
  (look (routeTraffic h (trafficOf 7 1 1460 6 used) 9 s).ms.slots 0).map Slot.state

/-- A stand-down that comes with the eviction is a hit only (Table 8-6). -/
theorem test_stand_down_with_eviction :
    ∀ st ∈ [SlotState.held, .queued], tookCopy (headerOf 1) 1 (evictedS { slotS with state := st }) = none := by decide +kernel

/-- Every other copy of an evicted message is new (R78): a later one; one that does not qualify; one that does not reach REDUNDANCY; one of a slot that could not stand down, or that a frame handled before it evicted. -/
theorem test_copy_after_eviction :
    ∀ s ∈ [tookCopy (headerOf 1) 1 ((evictedS { slotS with state := .held }).withNow 100001),
        tookCopy (headerOf 1) 0 (evictedS { slotS with state := .held }),
        tookCopy { headerOf 1 with congested := true } 1 (evictedS { slotS with state := .held }),
        tookCopy (headerOf 1) 1 (evictedS { slotS with state := .held, cls := .life }),
        tookCopy (headerOf 1) 1 (evictedS { slotS with state := .await }),
        tookCopy (headerOf 1) 1 (evictedByFrame { slotS with state := .held })], s = some .held := by decide +kernel

/-- A POST that evicts notes its victim as it stood. -/
theorem test_post_notes_its_victims :
    let s := liveS.withMs packedStore
    let t := (takePost ⟨1460, .urgent, 6, [0x41]⟩ s).2
    t.ms.evictedAt = 100000 ∧ t.ms.evicted = (look s.ms.slots 0).toList := by decide +kernel

theorem test_witness_MeetsAsNew :
    MeetsAsNew liveS (headerOf 1) (trafficOf 29 5 1460 6 1) 9 ⟨⟨29, 5⟩, .dropped, none, 0, false, false, none, false⟩
      ∧ MeetsAsNew (evictedByFrame { slotS with state := .held }) (headerOf 1) (trafficOf 7 1 1460 6 1) 9
        ⟨⟨7, 1⟩, .dropped, none, 0, false, true, none, false⟩ :=
  ⟨Or.inl (by decide +kernel), Or.inr ⟨⟨⟨7, 1⟩, .dropped, none, 0, false, true, none, false⟩, by decide +kernel, rfl, rfl, rfl,
    fun h => by obtain ⟨x, hx, _⟩ := h.2; cases hx⟩⟩

theorem test_witness_StandDownTooLate :
    StandDownTooLate (evictedS { slotS with state := .held }) (headerOf 1) (trafficOf 7 1 1460 6 1) 9 :=
  ⟨by decide +kernel, { slotS with state := .held, originated := false, relay := true }, by decide +kernel⟩

/-- A full pool with a record to displace and with none; the slot of a message addressed here, unanswered, that its last segment completes. -/
theorem test_witness_fullPool :
    let p (n : Serial) (c : MsgClass) : Receipt := ⟨⟨29, n⟩, c, 17, 6, 2, .waiting 100000, [], false⟩
    let l (c : MsgClass) := (List.range 16).map fun i => p (BitVec.ofNat 16 (i + 10)) c
    (l .routine).length = 16 ∧ (∀ r ∈ l .routine, r.id ≠ ⟨29, 5⟩) ∧ (displaced .urgent (l .routine)).map Receipt.id = some ⟨29, 25⟩
      ∧ displaced .urgent (l .urgent) = none ∧ AddressedHere liveS 7 := by decide +kernel

/-- A FREE slot, slots of the other states, and one of the state without its deadline. -/
theorem test_witness_expiriesWithoutEffect :
    look liveS.ms.slots 0 = none
      ∧ ∀ st ∈ [SlotState.queued, .onAir, .inbox], (look (withSlot { slotS with state := st }).ms.slots 0).map Slot.state = some st := by
  decide +kernel

/-- Entries that a copy only hits; a missing segment with no block free, with a victim of a lower class and with none. -/
theorem test_witness_hitsAndEvictions :
    let e (d : Disposition) : IdTable := { liveS.idt with
      buckets := place liveS.idt.buckets (bucketOf ⟨29, 5⟩) ⟨some ⟨⟨29, 5⟩, d, none, 3, false, false, none, false⟩, none, none⟩ }
    (∀ d ∈ [Disposition.seen, .relayed, .settled, .failed], ((e d).entry ⟨29, 5⟩).map Entry.disposition = some d)
      ∧ (evictedS { slotS with state := .held }).idt.entry ⟨7, 1⟩ = some { entryS with disposition := .dropped, link := none }
      ∧ packedStore.free = [] ∧ packedStore.plan .welfare 0 1 = some [0] ∧ packedStore.plan .routine 0 1 = none := by decide +kernel

theorem test_witness_poolOpen : PoolOpen liveS ⟨29, 5⟩ := ⟨by decide, fun r h => by cases h⟩

/-- A receipt frame is taken as an accepted one. -/
theorem accepts_receipt {bytes : List Byte} {s : State} (hi : ∀ k, (look s.mp.buffers k).isHandled = false)
    (ha : accepted bytes 2 = true) (ho : s.ol.ownCode = some 7) :
    AcceptsReceipt (fullS bytes s) (parseHeader bytes) (parseReceipt (payload bytes)) 9 := by
  simp only [accepted, Bool.and_eq_true, Bool.not_eq_true', beq_iff_eq, bne_iff_ne, ne_eq] at ha
  obtain ⟨⟨⟨⟨h1, h2⟩, h3⟩, h4⟩, h5⟩ := ha
  exact ⟨0, bytes, [], fullS_idle bytes hi, rfl, look_place_same _ _ _, h1, h2, h3, rfl, h4, fun e => h5 ((show liveS.ol.ownCode = some 7 from rfl).trans (ho.symm.trans e)), rfl⟩

theorem test_witness_acceptsReceipt :
    AcceptsReceipt (fullS (receiptF ⟨29, 1, 5, 1460, 6, 2⟩) liveS) (parseHeader (receiptF ⟨29, 1, 5, 1460, 6, 2⟩))
      (parseReceipt (payload (receiptF ⟨29, 1, 5, 1460, 6, 2⟩))) 9 :=
  accepts_receipt (by decide +kernel) (by decide +kernel) rfl

/-- A receipt of a message posted here, of one held for delivery, and of one of which nothing is known. -/
theorem test_witness_HeardReceiptsSettleMessages :
    let f := receiptF ⟨7, 1, 1, 1460, 6, 2⟩
    accepted f 2 = true ∧ parseReceipt (payload f) = ⟨7, 1, 1, 1460, 6, 2⟩ ∧ queuedS.idt.entry ⟨7, 1⟩ = some entryS
      ∧ entryS.link = some 0 ∧ look queuedS.ms.slots 0 = some slotS ∧ queuedS.ol.ownCode ≠ some 1460 ∧ queuedS.du.pool.length < 16
      ∧ slotS.originated = true ∧ slotS.deliverHere = false ∧ slotS.state ≠ .onAir ∧ queuedS.ol.ownCode = some 7
      ∧ accepted (receiptF ⟨7, 1, 1, 7, 6, 2⟩) 2 = true ∧ ({ entryS with disposition := .failed, link := none } : Entry).originated = true
      ∧ liveS.idt.find ⟨29, 5⟩ = none ∧ (look liveS.idt.buckets (bucketOf ⟨29, 5⟩)).primA = none := by decide +kernel

/-- A pool record just qualified against and just not; candidates on both sides of budget 2; a pool of 16 with and without a lower class. -/
theorem test_witness_HeardReceiptsContend :
    let p (n : Serial) (c : MsgClass) (t : Nat) : Receipt := ⟨⟨29, n⟩, c, 17, 6, 2, .waiting t, [], false⟩
    let h := parseHeader (receiptF ⟨29, 1, 5, 1460, 6, 2⟩)
    let s := (withSlot { slotS with id := ⟨29, 5⟩ }).withDu { liveS.du with pool := (List.range 16).map fun i => p (BitVec.ofNat 16 i) .routine i }
    OverheardReceipt h ⟨29, 1, 5, 1460, 6, 2⟩ (p 5 .urgent 0) 2 ∧ ¬OverheardReceipt h ⟨29, 1, 5, 1460, 6, 1⟩ (p 5 .urgent 0) 2
      ∧ ¬OverheardReceipt h ⟨29, 1, 5, 1460, 6, 2⟩ (p 5 .urgent 0) 1 ∧ s.idt.entry ⟨29, 5⟩ = some { entryS with id := ⟨29, 5⟩ }
      ∧ (min 2 (15 - 13) = 2 ∧ min 2 (15 - 14) = 1) ∧ s.du.pool.length = 16 ∧ liveS.ol.ownCode ≠ some 29
      ∧ (displaced .urgent s.du.pool).map Receipt.id = some ⟨29, 15⟩ ∧ displaced .routine s.du.pool = none
      ∧ (liveS.ol.classes.get .urgent).redundancy = 1 := by decide +kernel

theorem test_witness_receiptCandidate :
    ReceiptCandidate (withSlot { slotS with id := ⟨29, 5⟩ }) (headerOf 2) ⟨29, 1, 5, 1460, 2, 13⟩ 2
      ∧ ¬ReceiptCandidate (withSlot { slotS with id := ⟨29, 5⟩ }) (headerOf 2) ⟨29, 1, 5, 1460, 2, 13⟩ 3
      ∧ ¬ReceiptCandidate (withSlot { slotS with id := ⟨29, 5⟩ }) (headerOf 2) ⟨29, 1, 5, 1460, 2, 14⟩ 2 :=
  ⟨⟨⟨{ entryS with id := ⟨29, 5⟩ }, by decide +kernel⟩, by decide⟩, fun h => absurd h.2 (by decide), fun h => absurd h.2 (by decide)⟩

/-- An echo just reached and just missed; an overheard copy at REDUNDANCY 1 and at 2; a delivered message, its receipt due. -/
theorem test_witness_EchoesEndTheWait :
    let w := { slotS with state := .await, sentDist := some 2 }
    let f := trafficF (trafficOf 7 1 1460 5 2)
    accepted f 1 = true ∧ parseTraffic (payload f) = trafficOf 7 1 1460 5 2 ∧ (withSlot w).idt.entry ⟨7, 1⟩ = some entryS
      ∧ look (withSlot w).ms.slots 0 = some w ∧ w.originated = true ∧ ({ w with originated := false } : Slot).deliverHere = false
      ∧ OverheardRelay (parseHeader f) (trafficOf 7 1 1460 5 2) (w.used.toNat + 2) 2
      ∧ ¬OverheardRelay (parseHeader f) (trafficOf 7 1 1460 5 2) (w.used.toNat + 3) 2
      ∧ ¬OverheardRelay (parseHeader f) (trafficOf 7 1 1460 5 2) (w.used.toNat + 2) 1
      ∧ (liveS.ol.classes.get .urgent).redundancy ≤ (addHeard [] 17).length ∧ ¬(liveS.ol.classes.get .life).redundancy ≤ (addHeard [] 17).length
      ∧ addHeard [1, 2, 3] 17 = [1, 2, 3] ∧ addHeard [17] 17 = [17]
      ∧ (trafficOf 7 1 1460 5 2).index.toNat + 1 = (trafficOf 7 1 1460 5 2).count ∧ 80000 + liveS.ol.settings.echo * 1000 = liveS.now
      ∧ ({ entryS with disposition := .delivered, link := none, receiptTime := some 80000 } : Entry).disposition = .delivered
      ∧ slotS.state = .queued ∧ entryS.disposition ≠ .delivered ∧ ({ w with state := .inbox } : Slot).state ≠ .assembling := by
  decide +kernel

/-- A window whose end is due now, after a full one and with 3 and 4 frames, on the seventh and on the eighth stuck one. -/
theorem test_witness_WindowEndUpdatesTheFigures :
    liveS.ofm.window = some ⟨500, 255, 255, true, false, 100000⟩ ∧ liveS.now = 100000 ∧ setupS.now < 100000
      ∧ isStorm 3 3 = false ∧ isStorm 4 3 = true ∧ isStorm 4 2 = false ∧ min 8 (7 + 1) = 8 ∧ min 8 (6 + 1) ≠ 8 := by decide +kernel

theorem test_witness_ClockConditionsDriveClockLoss :
    let r := (liveS.withPins ⟨true, false⟩).withMp { liveS.mp with rxWatch := some 99980 }
    let k := keyedS ⟨.beacon, [], 15, 1⟩
    r.ol.phase = .live ∧ r.pins.dcd = true ∧ r.mp.rxWatch = some 99980 ∧ 99980 + 20 ≤ r.now ∧ r.ofm.rxLoss = false
      ∧ r.ofm.faults.clockLoss.live = false ∧ k.mp.key = .sending ∧ k.mp.txWatch = some 99980 ∧ k.ofm.txLoss = false
      ∧ (r.withOfm { r.ofm with rxLoss := true }).ofm.txLoss = false
      ∧ (k.withOfm { k.ofm with txLoss := true }).ofm.rxLoss = false := by decide +kernel

/-- Both conditions held while keyed under DCD: a sound Monitor at which either edge ends one of two. -/
theorem test_witness_bothConditions (f : TxFrame) :
    (((keyedS f).withPins ⟨true, false⟩).withOfm { liveS.ofm with
      rxLoss := true, txLoss := true, faults := liveS.ofm.faults.set .clockLoss ⟨true, true, true, true, true⟩ }).MonitorSound := by
  obtain ⟨h1, h2, h3, h4, h5, h6, _⟩ := (test_monitorSound f).1
  have hf : ∀ c : ChannelFault, ((liveS.ofm.faults.set .clockLoss ⟨true, true, true, true, true⟩).get c).live = true →
      ((liveS.ofm.faults.set .clockLoss ⟨true, true, true, true, true⟩).get c).held = true := fun c => by cases c <;> decide
  exact ⟨h1, h2, h3, h4, h5, hf, rfl, fun _ => ⟨rfl, rfl⟩, fun _ => rfl, fun h => by cases h⟩

theorem test_witness_SlotDeadlinesExpire :
    ∀ st ∈ [SlotState.assembling, .held, .await], look (withSlot { slotS with state := st, deadline := some 100000 }).ms.slots 0
      = some { slotS with state := st, deadline := some 100000 } ∧ 100000 ≤ liveS.now := by decide +kernel

theorem test_witness_echoDeadlines :
    ∀ n ∈ [0, 1, 7], ∀ o ∈ [true, false],
      let w := { slotS with state := .await, deadline := some 100000, retries := n, originated := o }
      look (withSlot w).ms.slots 0 = some w ∧ 100000 ≤ liveS.now ∧ w.deliverHere = false
        ∧ ({ w with deliverHere := true, unread := true } : Slot).unread = true
        ∧ ({ w with deliverHere := true } : Slot).unread = false := by decide +kernel

theorem test_witness_ReceiptAndAccessTimersExpire :
    let r : Receipt := ⟨⟨29, 5⟩, .urgent, 17, 6, 0, .waiting 100000, [], false⟩
    [r].find? (fun x => x.id == r.id) = some r ∧ r.state = .waiting 100000 ∧ 100000 ≤ liveS.now ∧ liveS.du.pool = [] := by
  decide +kernel

theorem test_witness_accessTimers :
    let s := liveS.withAc { liveS.ac with listenEnd := some 100000 }
    100000 ≤ s.now ∧ s.ac.identTimer = some 100000 ∧ s.ac.beaconTimer = some 100000 ∧ s.ac.listenEnd = some 100000 := by decide +kernel

/-- Chapter 6's bucket of 2040/4660, and an insert that succeeds. -/
theorem test_witness_BucketIsLowNineBits :
    (bucketOf ⟨2040, 4660⟩).val = (4660 ^^^ 2040 * 16) % 512
      ∧ (match liveS.idt.insert ⟨29, 5⟩ .seen false with
          | .inserted _ => true
          | _ => false) = true := by decide +kernel

/-- A bucket with both primaries and a chain of two; an old entry linked and one not; the first bucket, the last, and none left. -/
theorem test_witness_SweepAgesAndRemoves :
    let e (n : Serial) (age : Nat) (l : Option (Fin 64)) : Entry := ⟨⟨7, n⟩, .seen, l, age, false, false, none, false⟩
    let b := bucketOf ⟨7, 1⟩
    let t : IdTable := { liveS.idt with
      buckets := place liveS.idt.buckets b ⟨some (e 1 59 none), some (e 513 3 (some 0)), some 4⟩
      overflow := place (place liveS.idt.overflow 4 ⟨some (e 1025 80 none), some 9⟩) 9 ⟨some (e 1537 80 none), none⟩
      free := [] }
    liveS.idt.minuteAt = some 100000 ∧ 100000 ≤ liveS.now ∧ t.chain b = [4, 9] ∧ ([4, 9] : List (Fin 256)).Nodup
      ∧ [(4 : Fin 256), 9].getLast? = some 9 ∧ (look t.overflow 9).next = none ∧ (look t.overflow 4).entry ≠ none
      ∧ (look t.overflow 9).entry ≠ none ∧ (∀ k ∈ [0, 511, 512], ({ t with sweep := some k } : IdTable).sweep = some k) ∧ 512 ≤ 512
      ∧ (e 1 59 none).swept 60 = none ∧ (e 1 58 none).swept 60 = some (e 1 59 none) ∧ t.find ⟨7, 2049⟩ = none
      ∧ t.find ⟨7, 1025⟩ = some (.overflow 4) ∧ t.spots b = [.primA b, .primB b] ++ .overflow 4 :: [.overflow 9]
      ∧ (match t.insert ⟨7, 2049⟩ .seen false with
          | .inserted u => [1025, 2049, 1537].map fun n => (u.entry ⟨7, n⟩).isSome
          | _ => []) = [false, true, true] := by decide +kernel

/-- An entry at the point of removal; a pass with a code left and one with none; a code of the pass that is not in the table. -/
theorem test_witness_AgingPassAgesAndRemoves :
    let t : DistTable := { liveS.dt with singles := [⟨5, 1, 5, none, 19, false, false⟩], pass := some [5] }
    liveS.dt.minuteAt = some 100000 ∧ t.pass = some [5] ∧ t.single 5 = some ⟨5, 1, 5, none, 19, false, false⟩
      ∧ t.singles.length ≤ 48 ∧ (t.singles.map Single.code).Nodup ∧ t.pinnedCount ≤ 8 ∧ t.single 6 = none
      ∧ (t.learn false 20 ⟨6, 1, 6, none, 0, false, false⟩).pass = some [5] ∧ (t.purge false).pass = some []
      ∧ ((t.purge false).learn false 20 ⟨5, 1, 5, none, 0, false, false⟩).passDone = true := by decide +kernel

/-- An unknown progress, and progresses on both sides of the point where the progress term reaches 0. -/
theorem test_witness_ContentionCountFollowsItsStages :
    progress 15 3 = none ∧ progress 7 3 = some 4 ∧ progress 8 3 = some 5 ∧ progressTerm (some 4) = 0 ∧ progressTerm (some 5) = 0
      ∧ progressTerm (some 3) = 3 ∧ progressTerm none = 12 ∧ liveS.ol.ownCode = some 7 := by decide +kernel

/-- The fields of a TRAFFIC frame that a station other than its sender accepts. -/
def goodTraffic (t : Traffic) : Bool :=
  !notIndividual t.origin && t.dest != 0 && t.budget != 0 && decide (1 ≤ t.bodyLength.toNat ∧ t.bodyLength.toNat ≤ 512)
    && t.count == segments t.bodyLength.toNat && decide (t.index.toNat < t.count)
    && t.data.length == segmentSize t.bodyLength.toNat t.count t.index.toNat && validate (some 7) (trafficF t) == .accepted

/-- The smallest and the largest body, a receipt, callsigns of both limits, and a check with one bit changed. -/
theorem test_witness_ComposedFramesAreAccepted :
    goodTraffic (trafficOf 29 5 1460 6 1) = true ∧ goodTraffic ⟨29, 1, 5, 1460, 6, 1, 7, 512, 7, List.replicate 64 0x41⟩ = true
      ∧ notIndividual (headerOf 1).sender = false ∧ validate (some 7) (receiptF ⟨29, 1, 5, 1460, 6, 2⟩) = .accepted
      ∧ (∀ c ∈ [txt "ZZ9", txt "KD2QRT/P41"], 3 ≤ c.length ∧ c.length ≤ 10 ∧ c.all callByte = true
          ∧ validate (some 7) (frameBytes (headerOf 3) c) = .accepted)
      ∧ (1 : BitVec 16) ≠ 0 ∧ validate (some 7) (beaconF.set 9 ((beaconF.getD 9 0) ^^^ 1)) = .checkfail := by decide +kernel

/-- The live state has every invariant that a step keeps. -/
theorem test_witness_LineInvariants : liveS.ol.Fits ∧ liveS.ol.Legal := by
  have hp : ∀ c, liveS.ol.post = some c → c.body.length ≤ Config.bodyCapacity := fun c h => by cases h
  have hs : liveS.ol.settings.Legal := fun n => by cases n <;> decide
  have hr : ∀ c : MsgClass, 1 ≤ (liveS.ol.classes.get c).redundancy ∧ (liveS.ol.classes.get c).redundancy ≤ 3 :=
    fun c => by cases c <;> decide
  have hc : ∀ c, liveS.ol.ownCode = some c → 1 ≤ c.toNat ∧ c.toNat ≤ 4093 := fun c h => by cases h; decide
  have ht : ∀ t, liveS.ol.callsign = some t → 3 ≤ t.length ∧ t.length ≤ 10 ∧ t.all callByte = true := fun t h => by cases h; decide
  exact ⟨⟨Nat.zero_le _, Nat.zero_le _, rfl, hp, fun h => by cases h⟩, hs, hr, rfl, hc, ht, fun _ => ⟨rfl, rfl⟩⟩

theorem test_witness_PortInvariants : liveS.PortAgrees ∧ liveS.ac.Sound ∧ liveS.SeededInLive := by
  have he : ∀ b, look liveS.mp.buffers b = .empty := fun b => look_replicate _ _
  have hf : ∀ b bytes q, look liveS.mp.buffers b = .full bytes q ∨ look liveS.mp.buffers b = .inHandling bytes q →
      frameBytesOk bytes = true := fun b x q h => by rcases h with h | h <;> (rw [he b] at h; cases h)
  have hg : ∀ b bytes, look liveS.mp.buffers b = .filling bytes → 5 ≤ bytes.length →
      payloadLength bytes ≤ Config.maxPayload ∧ bytes.length < 7 + payloadLength bytes := fun b x h => by rw [he b] at h; cases h
  have hk : liveS.ac.access = .keyed ↔ liveS.ptt = true := by decide
  have ho : liveS.mp.assembler = .off ↔ ¬(liveS.ol.phase = .live ∧ liveS.ptt = false) := by decide
  have hs : liveS.ac.Sound := by unfold AccessController.Sound; decide
  exact ⟨⟨fun _ => rfl, ho, fun _ => rfl, rfl, hk, hf, hg⟩, hs, Iff.intro (fun _ => rfl) fun _ => rfl⟩

/-- AC KEYED, with PTT asserted. -/
theorem test_witness_portAgreesKeyed (f : TxFrame) : (keyedS f).PortAgrees :=
  ⟨fun _ => rfl, ⟨fun _ h => (by cases h.2), fun _ => rfl⟩, fun h => (by cases h), rfl, ⟨fun _ => rfl, fun _ => rfl⟩,
    test_witness_PortInvariants.1.2.2.2.2.2⟩

theorem test_witness_TableInvariants : liveS.MonitorSound ∧ liveS.dt.Fits ∧ liveS.du.Fits ∧ liveS.ms.Conserved :=
  ⟨(test_monitorSound ⟨.beacon, [], 15, 1⟩).1, by unfold DistTable.Fits; decide, by unfold DeliveryUnit.Fits; decide,
    test_conserved.1⟩

/-- With nothing stored the table is sound, and slots, entries and queues agree. -/
theorem liveS_at (p : Spot) : liveS.idt.at p = none := by
  cases p with
  | primA b => exact congrArg Bucket.primA (look_replicate _ b)
  | primB b => exact congrArg Bucket.primB (look_replicate _ b)
  | overflow i => exact congrArg Overflow.entry (look_replicate _ i)

theorem liveS_spots (b : Fin 512) : liveS.idt.spots b = [.primA b, .primB b] := by
  unfold IdTable.spots IdTable.chain
  rw [show (look liveS.idt.buckets b).head = none from congrArg Bucket.head (look_replicate _ b)]
  rfl

theorem liveS_chain (b : Fin 512) : liveS.idt.chain b = [] := by
  have h := liveS_spots b
  simpa [IdTable.spots] using h

theorem test_witness_Linked : liveS.Linked := by
  have ha := liveS_at
  have hc := liveS_chain
  have hn : ∀ b, (liveS.idt.spots b).filterMap liveS.idt.at = [] :=
    fun b => List.filterMap_eq_nil_iff.2 fun p _ => ha p
  have he : ∀ id, liveS.idt.entry id = none := by
    intro id
    unfold IdTable.entry
    cases liveS.idt.find id with
    | none => rfl
    | some p => exact ha p
  have hs : ∀ i, look liveS.ms.slots i = none := fun i => look_replicate _ i
  have hq : ∀ c, liveS.ac.queues.get c = [] := fun c => by cases c <;> rfl
  have hl : (List.finRange 512).flatMap liveS.idt.chain = [] := List.flatMap_eq_nil_iff.2 fun b _ => hc b
  have hp : ((List.finRange 512).flatMap liveS.idt.chain ++ liveS.idt.free).Perm (List.finRange 256) := by
    rw [hl, List.nil_append, show liveS.idt.free = List.finRange 256 by simp only [liveS, IdTable.reset]]
  have hf : ∀ x ∈ liveS.idt.free, (look liveS.idt.overflow x).entry = none := fun x _ => ha (.overflow x)
  refine ⟨⟨fun b p _ e h => ?_, fun b => ?_, hp, fun b x h => ?_, hf, fun b x h => ?_⟩, fun i sl h => ?_, fun id e i h => ?_,
    fun c i => ?_, fun c => ?_, fun h => ?_, fun _ => rfl, fun i sl h => ?_, fun i sl h => ?_, fun i j si sj h => ?_⟩
  · rw [ha p] at h; cases h
  · rw [hn b]; exact List.nodup_nil
  · rw [hc b] at h; cases h
  · rw [hc b] at h; cases h
  · rw [hs i] at h; cases h
  · rw [he id] at h; cases h
  · rw [hq c, hs i]; exact Iff.intro (fun h => by cases h) fun h => by obtain ⟨_, h, _⟩ := h; cases h
  · rw [hq c]; exact List.nodup_nil
  · cases h
  · rw [hs i] at h; cases h
  · rw [hs i] at h; cases h
  · rw [hs i] at h; cases h

/-- A slot that gives way: HELD, ROUTINE, relay-only. -/
def lowSlot : Slot :=
  { slotS with state := .held, id := ⟨29, 1⟩, cls := .routine, originated := false, relay := true, deadline := some 5 }

def lowEntry : Entry := ⟨⟨29, 1⟩, .stored, some 0, 0, false, false, none, false⟩

/-- LIVE with `lowSlot` in slot 0 and no block free. -/
def crowdedS : State :=
  (liveS.withMs { Store.reset with slots := place Store.reset.slots 0 (some lowSlot), free := [] }).withIdt
    (liveS.idt.put (.primA (bucketOf ⟨29, 1⟩)) (some lowEntry))

theorem crowdedS_slots (i : Fin 64) : look crowdedS.ms.slots i = if i = 0 then some lowSlot else none :=
  (look_place_cases _ _ _ _).trans (by rw [show look Store.reset.slots i = none from look_replicate _ i])

theorem crowdedS_at (p : Spot) : crowdedS.idt.at p = if p = .primA (bucketOf ⟨29, 1⟩) then some lowEntry else none := by
  split
  next h => rw [h, show crowdedS.idt = liveS.idt.put (.primA (bucketOf ⟨29, 1⟩)) (some lowEntry) from rfl, at_put_same]
  next h => exact (at_put_other h).trans (liveS_at p)

theorem crowdedS_entry (id : Identity) : crowdedS.idt.entry id = if id = ⟨29, 1⟩ then some lowEntry else none := by
  split
  next h =>
    rw [h]
    exact entry_put (List.find?_eq_none.2 fun p _ => by simp [IdTable.holds, liveS_at]) (by simp [liveS_spots]) rfl
  next h =>
    unfold IdTable.entry
    cases hf : crowdedS.idt.find id with
    | none => rfl
    | some p =>
      have hp := List.find?_some hf
      rw [IdTable.holds, crowdedS_at p] at hp
      split at hp
      next hx => split at hx <;> cases hx; exact absurd (beq_iff_eq.1 hp).symm h
      next => cases hp

theorem test_witness_crowdedLinked : crowdedS.Linked := by
  have hs := crowdedS_slots
  have hc : ∀ b, crowdedS.idt.spots b = [.primA b, .primB b] := fun b => (spots_put _ _ _ b).trans (liveS_spots b)
  have hch : ∀ b, crowdedS.idt.chain b = [] := fun b => by simpa [IdTable.spots] using hc b
  have hl : (List.finRange 512).flatMap crowdedS.idt.chain = [] := List.flatMap_eq_nil_iff.2 fun b _ => hch b
  have hp : ((List.finRange 512).flatMap crowdedS.idt.chain ++ crowdedS.idt.free).Perm (List.finRange 256) := by
    rw [hl, List.nil_append, show crowdedS.idt.free = List.finRange 256 by
      simp only [crowdedS, State.withIdt, IdTable.put, liveS, IdTable.reset]]
  have hone : ∀ i sl, look crowdedS.ms.slots i = some sl → i = 0 ∧ sl = lowSlot := by
    intro i sl h; rw [hs i] at h; split at h
    · next e => cases h; exact ⟨e, rfl⟩
    · cases h
  have hq : ∀ c, crowdedS.ac.queues.get c = [] := fun c => by cases c <;> rfl
  refine ⟨⟨fun b p hb e h => ?_, fun b => ?_, hp, fun b x h => ?_, fun x _ => ?_, fun b x h => ?_⟩, fun i sl h => ?_,
    fun id e i h hi => ?_, fun c i => ?_, fun c => ?_, fun h => ?_, fun _ => rfl, fun i sl h => ?_, fun i sl h hst => ?_,
    fun i j si sj h hj _ _ => ?_⟩
  · rw [crowdedS_at p] at h; split at h
    next e' => cases h; rw [hc b, e'] at hb; simp at hb; exact hb
    next => cases h
  · rw [hc b]; simp only [List.filterMap_cons, crowdedS_at, List.filterMap_nil]
    by_cases e : b = bucketOf ⟨29, 1⟩
    · simp [e]
    · rw [if_neg (fun h => e (Spot.primA.inj h))]; exact List.nodup_nil
  · rw [hch b] at h; cases h
  · exact (crowdedS_at (.overflow x)).trans (if_neg (by intro h; cases h))
  · rw [hch b] at h; cases h
  · obtain ⟨rfl, rfl⟩ := hone i sl h; exact ⟨lowEntry, (crowdedS_entry _).trans (if_pos rfl), rfl⟩
  · rw [crowdedS_entry id] at h; split at h
    next e' => cases h; cases hi; exact ⟨lowSlot, (hs 0).trans (if_pos rfl), e'.symm⟩
    next => cases h
  · rw [hq c]; constructor
    · intro h; cases h
    · rintro ⟨sl, h, hst, _⟩; obtain ⟨_, rfl⟩ := hone i sl h; cases hst
  · rw [hq c]; exact List.nodup_nil
  · cases h
  · obtain ⟨_, rfl⟩ := hone i sl h; decide +kernel
  · obtain ⟨_, rfl⟩ := hone i sl h; cases hst
  · exact (hone i si h).1.trans (hone j sj hj).1.symm

/-- A shortfall of one block, met by slot 0 for a higher class and by none for the same class; what the new message then gets. -/
theorem test_witness_shortfall :
    crowdedS.ms.plan .urgent 1 1 = some [0] ∧ crowdedS.ms.plan .routine 1 1 = none ∧ lowSlot.attached = [0]
      ∧ crowdedS.ms.free ++ [(0 : Fin 64)].flatMap (fun j => ((look crowdedS.ms.slots j).map Slot.attached).getD []) = 0 :: [] := by decide +kernel

theorem test_witness_NeedsSlot :
    NeedsSlot crowdedS (headerOf 1) (trafficOf 29 5 1460 6 1) 9 ∧ NeedsSlot crowdedS (headerOf 1) (trafficOf 29 5 7 6 1) 9
      ∧ NeedsSlot crowdedS (headerOf 1) (segmentT 1460 2 13) 9 ∧ ¬NeedsSlot crowdedS (headerOf 1) (segmentT 1460 2 14) 9 := by
  refine ⟨?_, ?_, ?_, ?_⟩ <;> decide +kernel

/-- A bucket whose two entries are linked, with no overflow entry free. -/
theorem test_witness_failedInsert :
    let t : IdTable := { liveS.idt with
      buckets := place liveS.idt.buckets (bucketOf ⟨29, 5⟩)
        ⟨some ⟨⟨29, 517⟩, .stored, some 0, 0, false, false, none, false⟩, some ⟨⟨29, 1029⟩, .stored, some 1, 0, false, false, none, false⟩, none⟩
      free := [] }
    t.find ⟨29, 5⟩ = none ∧ (t.spots (bucketOf ⟨29, 5⟩)).all (fun p => (t.at p).any fun e => e.link.isSome) = true
      ∧ t.insert ⟨29, 5⟩ .dropped false = .failed := by decide +kernel

/-- A record in each state as it may stand, and records that may not. -/
theorem test_slotSound :
    (∀ x ∈ [slotS, { slotS with state := .await, deadline := some 5, sentDist := some 3, heard := [1, 2, 3] },
        { slotS with count := 2, state := .assembling, deadline := some 5 }], x.Sound)
      ∧ ∀ x ∈ [{ slotS with count := 2 }, { slotS with deadline := some 5 }, { slotS with heard := [1, 1] }], ¬x.Sound := by
  decide +kernel

/-- And a step from it answers a next state. -/
theorem test_witness_StepAnswers : ∃ t, step liveS = .next t := by
  show ∃ t, idle liveS = .next t
  unfold idle
  rw [show nextEvent liveS = some .windowEnd by decide +kernel]
  exact ⟨_, rfl⟩

/-! ## A dialogue -/

/-- CODE 679 typed in SETUP, as the operator types it, is answered "+CODE 679". -/
def typed (s : State) (l : Text) : State :=
  (l ++ [0x0D]).foldl (fun s c => s.withOl (s.ol.receive c false)) s

/-- The output after the step that the idle part takes on the typed line. -/
def outputOf (r : Result) : Text :=
  match r with
  | .next s => s.ol.output
  | _ => []

theorem test_dialogue_code : outputOf (step (typed setupS (txt "code 679"))) = txt "+CODE 679" ++ crlf := by decide +kernel
theorem test_dialogue_timing : outputOf (step (typed setupS (txt "TIMING SLOT 47"))) = txt "+TIMING SLOT 40 CLAMPED" ++ crlf := by
  decide +kernel
theorem test_dialogue_span : outputOf (step (typed setupS (txt "SPAN 1 2000 10 9"))) = txt "+SPAN 1 1024 10 9 CLAMPED" ++ crlf := by
  decide +kernel
/-- A line is taken while the report of a self-test waits for room, but not while an answer does (R170). -/
theorem test_line_behind_report :
    let s (b : Bool) : State := typed (setupS.withOl { setupS.ol with output := List.replicate 1020 0x41, waiting := [⟨txt "+TEST 1 PASS", b⟩] }) (txt "HOPS 3")
    ((match step (s true) with
        | .next t => t
        | _ => setupS).ol.settings.hops, (match step (s false) with
        | .next t => t
        | _ => setupS).ol.settings.hops) = (3, 6) := by decide +kernel
theorem test_dialogue_state : outputOf (step (typed liveS (txt "CODE 4"))) = txt "-STATE" ++ crlf := by decide +kernel
theorem test_dialogue_syntax : outputOf (step (typed setupS (txt "FOO"))) = txt "-SYNTAX" ++ crlf := by decide +kernel
theorem test_dialogue_onair : outputOf (step (typed setupS (txt "ONAIR"))) = txt "-INCOMPLETE" ++ crlf := by decide +kernel

end Sys2Proof.Tests
end

section
/-! SUPPORT. What the part does behind the operator's back: every operation of the channel, the store, the tables and the clock changes nothing of the operator line but its pending notices, and keeps the Delivery Unit within its bounds. -/

namespace Sys2Proof.Machine

/-! ### The relation -/

/-- The operator line without its pending notices. -/
def OperatorLine.bare (o : OperatorLine) : OperatorLine := { o with notices := NoticeSet.none }

/-- The sizes of the operator line do not hang on its pending notices. -/
theorem fits_bare {o : OperatorLine} : o.bare.Fits ↔ o.Fits := Iff.rfl

theorem legal_bare {o : OperatorLine} : o.bare.Legal ↔ o.Legal := Iff.rfl

/-- From `s` to `t` the operator line is the same but for its pending notices, and the Delivery Unit stays within its bounds. -/
structure Background (s t : State) : Prop where
  line : t.ol.bare = s.ol.bare
  unit : s.du.Fits → t.du.Fits

namespace Background

variable {s u v : State}

theorem refl (s : State) : Background s s := ⟨rfl, id⟩

theorem trans (h : Background s u) (g : Background u v) : Background s v := ⟨g.line.trans h.line, g.unit ∘ h.unit⟩

/-- A change beside the operator line and the Delivery Unit. -/
theorem same (h : Background s u) (hl : v.ol = u.ol) (hd : v.du = u.du) : Background s v :=
  ⟨(congrArg OperatorLine.bare hl).trans h.line, fun hs => hd ▸ h.unit hs⟩

theorem ofm (h : Background s u) (x : Monitor) : Background s (u.withOfm x) := h.same rfl rfl
theorem mp (h : Background s u) (x : ModemPort) : Background s (u.withMp x) := h.same rfl rfl
theorem fh (h : Background s u) (x : FrameHandler) : Background s (u.withFh x) := h.same rfl rfl
theorem ms (h : Background s u) (x : Store) : Background s (u.withMs x) := h.same rfl rfl
theorem idt (h : Background s u) (x : IdTable) : Background s (u.withIdt x) := h.same rfl rfl
theorem dt (h : Background s u) (x : DistTable) : Background s (u.withDt x) := h.same rfl rfl
theorem ac (h : Background s u) (x : AccessController) : Background s (u.withAc x) := h.same rfl rfl
theorem pins (h : Background s u) (x : Pins) : Background s (u.withPins x) := h.same rfl rfl
theorem pending (h : Background s u) (x : List Instr) : Background s (u.withPending x) := h.same rfl rfl

/-- A change of the Delivery Unit that keeps its bounds. -/
theorem du (h : Background s u) {x : DeliveryUnit} (hx : u.du.Fits → x.Fits) : Background s (u.withDu x) :=
  ⟨h.line, fun hs => hx (h.unit hs)⟩

/-- Of two ways to go on, whichever is taken. -/
theorem ite {p : Prop} [Decidable p] (hu : Background s u) (hv : Background s v) : Background s (if p then u else v) := by
  split
  · exact hu
  · exact hv

end Background

variable {s u : State}

/-! ### The Receipt Pool -/

/-- At most 16 records, no two of one identity (R164). -/
def PoolFits (pool : List Receipt) : Prop := pool.length ≤ Config.poolSize ∧ (pool.map Receipt.id).Nodup

theorem fits_iff {d : DeliveryUnit} : d.Fits ↔ PoolFits d.pool ∧ d.outcomes.length ≤ Config.poolSize ∧ d.serial ≠ 0 := by
  simp only [DeliveryUnit.Fits, PoolFits, and_assoc]

/-- A unit whose pool is replaced by one that fits. -/
theorem fits_withPool {d : DeliveryUnit} {pool : List Receipt} (h : PoolFits d.pool → PoolFits pool) (hd : d.Fits) :
    ({ d with pool := pool } : DeliveryUnit).Fits := by
  rw [fits_iff] at hd ⊢
  exact ⟨h hd.1, hd.2⟩

theorem PoolFits.filter {pool : List Receipt} (f : Receipt → Bool) (h : PoolFits pool) : PoolFits (pool.filter f) :=
  ⟨Nat.le_trans (List.length_filter_le ..) h.1, h.2.sublist (List.filter_sublist.map _)⟩

/-- Records rewritten under their identities. -/
theorem PoolFits.map {pool : List Receipt} {f : Receipt → Receipt} (hf : ∀ r, (f r).id = r.id) (h : PoolFits pool) :
    PoolFits (pool.map f) := by
  refine ⟨by rw [List.length_map]; exact h.1, ?_⟩
  rw [List.map_map, show Receipt.id ∘ f = Receipt.id from funext hf]
  exact h.2

theorem poolHas_iff {pool : List Receipt} {i : Identity} : poolHas pool i = true ↔ i ∈ pool.map Receipt.id := by
  simp [poolHas]

/-- A record of a new identity joins a pool with room. -/
theorem PoolFits.join {pool : List Receipt} {r : Receipt} (h : PoolFits pool) (hl : pool.length < Config.poolSize)
    (hn : poolHas pool r.id = false) : PoolFits (pool ++ [r]) := by
  have hr : r.id ∉ pool.map Receipt.id := fun hm => by simp [poolHas_iff.2 hm] at hn
  refine ⟨by rw [List.length_append]; exact hl, ?_⟩
  rw [List.map_append]
  refine List.pairwise_append.2 ⟨h.2, List.pairwise_singleton .., fun i hi j hj he => ?_⟩
  cases List.mem_singleton.1 hj
  exact hr (he ▸ hi)

/-- The record displaced is one of the pool. -/
theorem displaced_mem {p : MsgClass} {pool : List Receipt} {d : Receipt} (h : displaced p pool = some d) : d ∈ pool := by
  have step (best : Option Receipt) (r x : Receipt) (hx : pickDisplaced p best r = some x) : x = r ∨ best = some x := by
    unfold pickDisplaced at hx
    (repeat' split at hx) <;> simp_all
  have hm : ∀ (l : List Receipt) (best : Option Receipt), l.foldl (pickDisplaced p) best = some d → d ∈ l ∨ best = some d := by
    intro l
    induction l with
    | nil => exact fun best hb => .inr hb
    | cons a l ih =>
      intro best hb
      rcases ih _ hb with hd | hd
      · exact .inl (List.mem_cons_of_mem _ hd)
      · rcases step _ _ _ hd with rfl | hb
        · exact .inl (List.mem_cons_self ..)
        · exact .inr hb
  exact (hm pool none h).resolve_right nofun

/-- A record of a new identity takes the place of a displaced one. -/
theorem PoolFits.displace {p : MsgClass} {pool : List Receipt} {r d : Receipt} (h : PoolFits pool)
    (hd : displaced p pool = some d) (hn : poolHas pool r.id = false) : PoolFits (poolWithout d.id pool ++ [r]) := by
  have hm := displaced_mem hd
  refine (h.filter _).join ?_ ?_
  · have : (poolWithout d.id pool).length < pool.length := List.length_filter_lt_length_iff_exists.2 ⟨d, hm, by simp⟩
    exact Nat.lt_of_lt_of_le this h.1
  · simp only [poolHas, List.any_eq_false] at hn ⊢
    exact fun x hx => hn x (List.mem_filter.1 hx).1

/-! ### Counters, notices and the Monitor -/

theorem background_raiseNotice (k : Notice) (h : Background s u) : Background s (raiseNotice k u) := ⟨h.line, h.unit⟩

theorem background_reportDropped (h : Background s u) : Background s (reportDropped u) := background_raiseNotice _ (h.fh _)

theorem background_raiseFault (f : ChannelFault) (h : Background s u) : Background s (raiseFault f u) := by
  unfold raiseFault
  dsimp only
  exact .ite h (.ite (background_raiseNotice _ (h.ofm _)) (h.ofm _))

theorem background_reportClocks (rx tx : Bool) (h : Background s u) : Background s (reportClocks rx tx u) := by
  unfold reportClocks
  exact .ite (background_raiseFault _ (h.ofm _)) ((h.ofm _).ofm _)

theorem background_reportAccepted (h : Background s u) : Background s (reportAccepted u) := ((h.ofm _).ofm _).ofm _

theorem background_clearHeldFaults (h : Background s u) : Background s (clearHeldFaults u) := by
  unfold clearHeldFaults
  exact .ite ((h.ofm _).ofm _) (h.ofm _)

/-- Time that passes. -/
theorem background_passed {v : State} (hp : Passed u v) (h : Background s u) : Background s v :=
  ⟨(congrArg OperatorLine.bare hp.line).trans h.line, fun hs => hp.du ▸ h.unit hs⟩

theorem background_advance (t : Nat) (h : Background s u) : Background s (advance t u) := background_passed (passed_advance t u) h

theorem background_advanceTo (t : Option Nat) (h : Background s u) : Background s (advanceTo t u) := by
  cases t with
  | none => exact h
  | some t => exact background_advance t h

/-! ### The Access Controller -/

theorem background_evaluate (h : Background s u) : Background s (evaluate u) := h.ac _

theorem background_evaluateFresh (h : Background s u) : Background s (evaluateFresh u) := (h.ac _).ac _

theorem background_dequeue (c : MsgClass) (i : Fin 64) (h : Background s u) : Background s (dequeue c i u) := (h.ac _).ac _

/-! ### Slots -/

theorem background_modSlot (i : Fin 64) (f : Slot → Slot) (h : Background s u) : Background s (modSlot i f u) := h.ms _

theorem background_freeSlot (i : Fin 64) (d : Disposition) (h : Background s u) : Background s (freeSlot i d u) := by
  unfold freeSlot
  split
  · exact h
  · exact .ite (background_dequeue _ _ ((h.ms _).idt _)) ((h.ms _).idt _)

theorem background_evict (i : Fin 64) (h : Background s u) : Background s (evict i u) :=
  background_reportDropped (background_freeSlot i .dropped h)

theorem background_evictions (vs : List (Fin 64)) (h : Background s u) : Background s (vs.foldl (fun s i => evict i s) u) := by
  induction vs generalizing u with
  | nil => exact h
  | cons i vs ih => exact ih (background_evict i h)

theorem background_allocate {p : MsgClass} {m n : Nat} {v : State} (ha : allocate p m n u = some v) (h : Background s u) :
    Background s v := by
  obtain ⟨vs, -, rfl⟩ := Option.map_eq_some_iff.1 ha
  exact background_evictions vs h

theorem background_toQueueTail (i : Fin 64) (h : Background s u) : Background s (toQueueTail i u) := by
  unfold toQueueTail
  split
  · exact h
  · exact ((h.ms _).ac _).ac _

theorem background_requeueOnAir (b : Bool) (h : Background s u) : Background s (requeueOnAir b u) := by
  unfold requeueOnAir
  split
  · exact h
  · split
    · exact h
    · exact ((h.ms _).ac _).ac _

/-! ### The Delivery Unit -/

theorem background_addOutcome (i : Identity) (k : OutcomeKind) (h : Background s u) : Background s (addOutcome i k u) :=
  h.du fun hu => by
    have ho := addOutcome_fits (id := i) (k := k) hu.2.2.1
    exact ⟨hu.1, hu.2.1, ho, hu.2.2.2⟩

theorem background_withPool {pool : List Receipt} (hp : PoolFits u.du.pool → PoolFits pool) (h : Background s u) :
    Background s (withPool pool u) := background_evaluate (h.du (fits_withPool hp))

theorem background_admitReceipt (r : Receipt) (h : Background s u) : Background s (admitReceipt r u) := by
  unfold admitReceipt
  split
  · exact h
  next hn =>
    have hn := eq_false_of_ne_true hn
    split
    next hl => exact background_withPool (fun hp => hp.join hl hn) h
    · split
      next d hd => exact background_withPool (fun hp => PoolFits.displace hp hd hn) (background_reportDropped h)
      · exact background_reportDropped h

theorem background_issueReceipt (i : Identity) (c : MsgClass) (h : Background s u) : Background s (issueReceipt i c u) :=
  (background_admitReceipt _ h).idt _

theorem background_deliver (i : Fin 64) (h : Background s u) : Background s (deliver i u) := by
  unfold deliver
  split
  · exact h
  next sl _ =>
    have hn := background_raiseNotice (if sl.cls = .life then .inboxLife else .inbox)
      (background_modSlot i (fun sl => { sl with unread := true }) h)
    exact .ite (background_issueReceipt _ _ hn) hn

theorem background_endRelayWork (i : Fin 64) (h : Background s u) : Background s (endRelayWork i u) := by
  unfold endRelayWork
  split
  · exact h
  · exact .ite (.ite (background_dequeue _ _ (h.ms _)) (h.ms _)) (background_freeSlot _ _ h)

theorem background_retireOriginated (i : Fin 64) (h : Background s u) : Background s (retireOriginated i u) := by
  unfold retireOriginated
  split
  · exact h
  · exact .ite (background_addOutcome _ _ (background_freeSlot _ _ h)) (background_freeSlot _ _ h)

theorem background_possibleEcho (i : Fin 64) (sl : Slot) (hd : Header) (t : Traffic) (h : Background s u) :
    Background s (possibleEcho i sl hd t u) :=
  .ite (background_retireOriginated i h) (.ite (background_endRelayWork i h) h)

theorem background_duplicate (e : Entry) (c : MsgClass) (t : Traffic) (h : Background s u) :
    Background s (duplicate e c t u) :=
  .ite (background_issueReceipt _ _ h) h

/-! ### Contention -/

theorem background_askDistance (x : Code) (h : Background s u) : Background s (askDistance x u).2 := h.dt _

theorem background_decideRelay (d : Decision) (h : Background s u) : Background s (decideRelay d u).2 := by
  unfold decideRelay
  dsimp only
  split
  · exact background_askDistance _ h
  · exact background_askDistance _ h

theorem background_overheard (i : Fin 64) (sl : Slot) (hd : Header) (t : Traffic) (h : Background s u) :
    Background s (overheard i sl hd t u) := by
  have ha := background_askDistance sl.dest h
  exact .ite h (.ite (.ite (background_endRelayWork i (background_modSlot _ _ ha)) (background_modSlot _ _ ha)) ha)

theorem background_overheardReceipt (rec : Receipt) (hd : Header) (r : ReceiptFrame) (h : Background s u) :
    Background s (overheardReceipt rec hd r u) := by
  have ha := background_askDistance r.origin h
  refine .ite (.ite (background_withPool (.filter _) ha) (ha.du (fits_withPool (.map fun x => ?_)))) ha
  split <;> rfl

theorem background_contendReceipt (before : Option Entry) (hd : Header) (r : ReceiptFrame) (q : Nibble) (h : Background s u) :
    Background s (contendReceipt before hd r q u) := by
  unfold contendReceipt
  split
  · exact background_overheardReceipt _ _ _ h
  · exact .ite (background_admitReceipt _ (background_askDistance _ h)) (background_askDistance _ h)

/-! ### Sending -/

theorem background_unkey (h : Background s u) : Background s (unkey u) := background_reportClocks _ _ (h.mp _)

theorem background_takeReceipt (r : Receipt) (h : Background s u) : Background s (takeReceipt r u).2 := by
  refine background_askDistance _ (h.du (fits_withPool (.map fun x => ?_)))
  split <;> rfl

theorem background_takeMessage (h : Background s u) : Background s (takeMessage u) := by
  unfold takeMessage
  split
  · exact h
  · split
    · exact h
    · exact (h.ac _).ms _

theorem background_firstFrame {f : TxFrame} {v : State} (hf : firstFrame u = some (f, v)) (h : Background s u) :
    Background s v := by
  unfold firstFrame at hf
  split at hf
  · cases hf; exact h
  · split at hf
    · cases hf; exact background_askDistance _ h
    · obtain ⟨r, -, hr⟩ := Option.map_eq_some_iff.1 hf
      have hb := background_takeReceipt r h
      rwa [hr] at hb

theorem background_keyTrain (h : Background s u) : Background s (keyTrain u) := by
  have hm := background_takeMessage (h.ac { u.ac.rest .keyed with sent := 0 })
  unfold keyTrain
  dsimp only
  split
  next hf => exact (background_firstFrame hf hm).mp _
  · exact hm.ac _

theorem background_follow (h : Background s u) : Background s (follow u) := by
  unfold follow
  split
  · exact (background_requeueOnAir true h).mp _
  · exact (background_askDistance _ h).mp _
  · exact (background_takeReceipt _ h).mp _

theorem background_receiptSent (i : Identity) (h : Background s u) : Background s (receiptSent i u) :=
  (background_withPool (.filter _) h).idt _

theorem background_lastSegmentSent (i : Fin 64) (d : Nibble) (h : Background s u) : Background s (lastSegmentSent i d u) := by
  have hm := background_modSlot i (fun sl => { sl with state := .await, resumeAt := 0, sentDist := some d }) h
  unfold lastSegmentSent
  dsimp only
  split
  · exact hm
  · exact .ite (.ite (background_retireOriginated i hm) (background_endRelayWork i hm)) (background_modSlot _ _ hm)

theorem background_segmentSent (i : Fin 64) (k : Fin 8) (d : Nibble) (h : Background s u) :
    Background s (segmentSent i k d u) := by
  unfold segmentSent
  split
  · exact h
  · exact .ite h (.ite (background_modSlot _ _ h) (background_lastSegmentSent i d h))

theorem background_reportSent (f : TxFrame) (h : Background s u) : Background s (reportSent f u) := by
  unfold reportSent
  split
  · exact h.ac _
  · exact background_receiptSent _ h
  · exact background_segmentSent _ _ _ h

theorem background_cutTrain (h : Background s u) : Background s (cutTrain u) :=
  (background_requeueOnAir false (background_unkey h)).du (fits_withPool (.map fun _ => rfl))

/-! ### Arrivals -/

theorem background_learnSender (hd : Header) (q : Nibble) (h : Background s u) : Background s (learnSender hd q u) := h.dt _

theorem background_learnFar (o : Code) (hd : Header) (n : Nibble) (h : Background s u) : Background s (learnFar o hd n u) :=
  .ite (h.dt _) h

theorem background_recordSeen (i : Identity) (h : Background s u) : Background s (recordSeen i u) := by
  unfold recordSeen
  split
  · exact h.idt _
  · split
    · exact h.idt _
    · exact h.idt _
    · exact background_reportDropped h

theorem background_enterIdentity (i : Identity) (h : Background s u) : Background s (enterIdentity i u).1 := by
  unfold enterIdentity
  split
  · exact h
  · split
    · exact h.idt _
    · exact h.idt _
    · exact background_reportDropped h

theorem background_createSlot (i : Fin 64) (sl : Slot) (segs : List (Fin 8 × List Byte)) (h : Background s u) :
    Background s (createSlot i sl segs u) := (h.ms _).idt _

theorem background_storeNew (t : Traffic) (sl : Slot) (h : Background s u) : Background s (storeNew t sl u) := by
  have he := background_enterIdentity t.id h
  unfold storeNew
  dsimp only
  split
  · split
    · exact background_reportDropped he
    next v hv =>
      have ha := background_allocate hv he
      split
      · exact ha
      · exact .ite (background_deliver _ (background_createSlot _ _ _ ha)) (background_createSlot _ _ _ ha)
  · exact he

theorem background_newMessage (hd : Header) (t : Traffic) (q : Nibble) (h : Background s u) :
    Background s (newMessage hd t q u) := by
  have hr := background_decideRelay (segmentDecision hd t q) h
  unfold newMessage
  refine .ite (background_recordSeen _ h) (.ite ?_ (background_storeNew _ _ h))
  split
  next hx => rw [hx] at hr; exact background_storeNew _ _ hr
  next hx => rw [hx] at hr; exact .ite (background_storeNew _ _ hr) (background_recordSeen _ hr)

theorem background_complete (i : Fin 64) (hd : Header) (q : Nibble) (h : Background s u) : Background s (complete i hd q u) := by
  have hm := background_modSlot i (fun sl => { sl with completion := u.now, q := q, deadline := none }) h
  unfold complete
  dsimp only
  split
  · exact hm
  next sl _ =>
    have hr := background_decideRelay ⟨sl.cls, sl.dest, sl.id.serial, sl.effective, sl.heard, hd.dist, q⟩ hm
    split
    next hx =>
      rw [hx] at hr
      exact .ite (background_deliver _ (background_modSlot _ _ hr)) (background_modSlot _ _ hr)
    next hx =>
      rw [hx] at hr
      exact .ite (background_deliver _ (background_modSlot _ _ hr)) (background_freeSlot _ _ hr)

theorem background_assemble (i : Fin 64) (sl : Slot) (hd : Header) (t : Traffic) (q : Nibble) (h : Background s u) :
    Background s (assemble i sl hd t q u) := by
  unfold assemble
  refine .ite (h.fh _) (.ite h ?_)
  split
  · exact background_reportDropped h
  next v hv =>
    have ha := (background_allocate hv h).ms (v.ms.attach i (Fin.ofNat 8 t.index.toNat) t.data)
    dsimp only
    split
    · exact .ite (background_complete _ _ _ ha) ha
    · exact ha

theorem background_linkedTraffic (i : Fin 64) (e : Entry) (hd : Header) (t : Traffic) (q : Nibble) (h : Background s u) :
    Background s (linkedTraffic i e hd t q u) := by
  unfold linkedTraffic
  split
  · exact h
  · split
    · exact background_assemble _ _ _ _ _ (background_overheard _ _ _ _ h)
    · exact background_overheard _ _ _ _ h
    · exact background_overheard _ _ _ _ h
    · exact background_overheard _ _ _ _ h
    · exact background_possibleEcho _ _ _ _ h
    · exact background_duplicate _ _ _ h

theorem background_unlinkedTraffic (e : Entry) (hd : Header) (t : Traffic) (q : Nibble) (h : Background s u) :
    Background s (unlinkedTraffic e hd t q u) := by
  unfold unlinkedTraffic
  split
  · exact .ite h (background_newMessage _ _ _ h)
  · exact background_duplicate _ _ _ h
  · exact h

theorem background_routeTraffic (hd : Header) (t : Traffic) (q : Nibble) (h : Background s u) :
    Background s (routeTraffic hd t q u) := by
  unfold routeTraffic
  dsimp only
  split
  · exact background_newMessage _ _ _ (h.idt _)
  · split
    · exact background_linkedTraffic _ _ _ _ _ (h.idt _)
    · exact background_unlinkedTraffic _ _ _ _ (h.idt _)

theorem background_reportDelivered (i : Identity) (d : Code) (h : Background s u) : Background s (reportDelivered i d u) :=
  background_raiseNotice _ (background_addOutcome _ _ h)

theorem background_receiptAtSlot (i : Fin 64) (sl : Slot) (r : ReceiptFrame) (h : Background s u) :
    Background s (receiptAtSlot i sl r u) :=
  .ite (.ite h (background_modSlot _ _ h))
    (.ite h (.ite (background_reportDelivered _ _ (background_freeSlot _ _ h)) (background_freeSlot _ _ h)))

theorem background_receiptAtEntry (e : Entry) (r : ReceiptFrame) (h : Background s u) :
    Background s (receiptAtEntry e r u) :=
  .ite (background_reportDelivered _ _ (h.idt _)) (.ite h (.ite h (h.idt _)))

theorem background_applyReceipt (e : Entry) (r : ReceiptFrame) (h : Background s u) : Background s (applyReceipt e r u) := by
  unfold applyReceipt
  split
  · split
    · exact background_receiptAtSlot _ _ _ h
    · exact h
  · exact background_receiptAtEntry _ _ h

theorem background_recordReceipt (i : Identity) (h : Background s u) : Background s (recordReceipt i u) := by
  unfold recordReceipt
  split
  · exact h.idt _
  · exact h.idt _
  · exact background_reportDropped h

theorem background_routeReceipt (hd : Header) (r : ReceiptFrame) (q : Nibble) (h : Background s u) :
    Background s (routeReceipt hd r q u) := by
  unfold routeReceipt
  dsimp only
  split
  · exact background_contendReceipt _ _ _ _ (background_recordReceipt _ (h.idt _))
  · exact background_contendReceipt _ _ _ _ (background_applyReceipt _ _ (h.idt _))

theorem background_acceptFrame (bytes : List Byte) (q : Nibble) (h : Background s u) : Background s (acceptFrame bytes q u) := by
  have ha := background_reportAccepted (h.fh { u.fh with accepted := satInc u.fh.accepted })
  have hl := background_learnSender (parseHeader bytes) q ha
  exact .ite (background_routeTraffic _ _ _ (background_learnFar _ _ _ hl))
    (.ite (background_routeReceipt _ _ _ (background_learnFar _ _ _ hl)) hl)

theorem background_handleFrame (bytes : List Byte) (q : Nibble) (h : Background s u) : Background s (handleFrame bytes q u) := by
  unfold handleFrame
  split
  · exact (h.fh _).ofm _
  · exact (h.ofm _).fh _
  · exact background_raiseNotice _ (h.ofm _)
  · exact background_acceptFrame _ _ (h.ofm _)

/-! ### Posting -/

/-- The counter never comes to 0 (R5). -/
theorem nextSerial_ne_zero (v : Serial) : nextSerial v ≠ 0 := by
  unfold nextSerial
  split
  · decide
  · bv_omega

theorem background_placePosted (p : Posting) (i : Identity) (h : Background s u) : Background s (placePosted p i u) := by
  unfold placePosted
  split
  · exact h
  · have hd : Background s (u.withDu { u.du with serial := nextSerial i.serial }) :=
      h.du fun ⟨hl, hn, ho, _⟩ => ⟨hl, hn, ho, nextSerial_ne_zero _⟩
    exact ((background_createSlot _ _ _ hd).ac _).ac _

theorem background_takePost (p : Posting) (h : Background s u) : Background s (takePost p u).2 := by
  unfold takePost
  dsimp only
  split
  · exact h.idt _
  · split
    · exact h.idt _
    next hw => exact background_placePosted _ _ (background_allocate hw ((h.idt _).ms _))

end Sys2Proof.Machine
end

section
/-! SUPPORT. The operator line keeps its sizes and its settings stay legal, and the Delivery Unit stays within its bounds, under every row of the table. -/

namespace Sys2Proof.Machine

/-! ### Sizes of the line -/

/-- The sizes of the line's buffers, of which waiting lines and blocks are no part (11.1). -/
def OperatorLine.Sized (o : OperatorLine) : Prop :=
  o.output.length ≤ Config.outputCapacity ∧ o.inputCount ≤ Config.inputCapacity ∧ o.typing.crStored = false
    ∧ ∀ c, o.post = some c → c.body.length ≤ Config.bodyCapacity

theorem lineFits_iff {o : OperatorLine} :
    o.Fits ↔ o.Sized ∧ (o.blockOpen = true → (answering o.waiting).getLast?.map OutLine.text = some [0x2E]) := by
  simp only [OperatorLine.Fits, OperatorLine.Sized, and_assoc]

/-- Placing lines keeps the sizes, and the closing line of a block that stays under way still waits (R169, R177). -/
theorem fits_flush {o : OperatorLine} (h : o.Sized) (fetching ohold : Bool) : (o.flush fetching ohold).Fits := by
  obtain ⟨hout, hin, hcr, hpost⟩ := h
  refine lineFits_iff.2 ⟨⟨placeLines_fits _ _ hout, hin, hcr, hpost⟩, fun hb => ?_⟩
  have hb : blockUnderWay o.blockOpen o.waiting (placeLines o.waiting o.output).2 = true := hb
  rw [blockUnderWay, Bool.and_eq_true, beq_iff_eq] at hb
  exact hb.1

theorem fits_takeLine {o : OperatorLine} (c : Instr) (h : o.Fits) : (o.takeLine c).Fits := by
  obtain ⟨hout, hin, hcr, hpost, hblock⟩ := h
  refine ⟨?_, Nat.le_trans (takeLine_input o c) hin, ?_, ?_, ?_⟩
  · rwa [takeLine_output]
  · rwa [takeLine_typing]
  · rwa [takeLine_post]
  · rwa [takeLine_blockOpen, takeLine_waiting]

/-- A carriage return takes a byte only where there is one left (R168). -/
theorem fits_receiveReturn {o : OperatorLine} (h : o.Fits) : o.receiveReturn.Fits := by
  obtain ⟨hout, hin, hcr, hpost, hblock⟩ := h
  have hcount : o.receiveReturn.inputCount = o.inputCount + (if o.inputRoom then 1 else 0) := by
    cases hr : o.inputRoom with
    | false => simp [OperatorLine.receiveReturn, OperatorLine.inputCount, InLine.bytes, InLine.empty, hr, hcr]
    | true =>
      simp [OperatorLine.receiveReturn, OperatorLine.afterStore, OperatorLine.inputCount, InLine.bytes, InLine.empty, hr, hcr]
      omega
  have hroom : o.inputRoom = true → o.inputCount < Config.inputCapacity := fun hr => of_decide_eq_true hr
  have hin' : o.receiveReturn.inputCount ≤ Config.inputCapacity := by
    rw [hcount]
    split
    next hr => exact hroom hr
    · exact hin
  unfold OperatorLine.receiveReturn at hin' ⊢
  dsimp only at hin' ⊢
  split
  next hr => rw [if_pos hr] at hin'; exact ⟨hout, hin', rfl, hpost, hblock⟩
  next hr => rw [if_neg hr] at hin'; exact ⟨hout, hin', rfl, hpost, hblock⟩

/-- Another character is stored only where there is a byte left (R168). -/
theorem fits_receiveOther {o : OperatorLine} (ch : Byte) (h : o.Fits) : (o.receiveOther ch).Fits := by
  obtain ⟨hout, hin, hcr, hpost, hblock⟩ := h
  unfold OperatorLine.receiveOther
  dsimp only
  split
  next hs =>
    have hroom : o.inputCount < Config.inputCapacity := of_decide_eq_true (Bool.and_eq_true_iff.1 hs).1
    refine ⟨hout, ?_, hcr, hpost, hblock⟩
    simp [OperatorLine.afterStore, OperatorLine.inputCount, InLine.bytes, hcr] at hroom ⊢
    omega
  · exact ⟨hout, hin, hcr, hpost, hblock⟩

theorem fits_receive {o : OperatorLine} (ch : Byte) (e : Bool) (h : o.Fits) : (o.receive ch e).Fits := by
  unfold OperatorLine.receive
  split
  · exact h
  · split
    · exact fits_receiveReturn h
    · exact fits_receiveOther ch h

/-- Characters that leave the output buffer leave the rest within its size (R169). -/
theorem fits_sent {o : OperatorLine} (n : Nat) (ohold : Bool) (h : o.Fits) : (o.sent n ohold).Fits := by
  obtain ⟨hout, hrest⟩ := h
  exact ⟨Nat.le_trans (by simp [OperatorLine.sent]) hout, hrest⟩

theorem fits_fetchSent {o : OperatorLine} (ohold : Bool) (h : o.Fits) : (o.fetchSent ohold).Fits := by
  unfold OperatorLine.fetchSent
  split
  · exact fits_sent _ ohold h
  · obtain ⟨-, hin, hcr, hpost, -⟩ := h
    exact ⟨Nat.zero_le _, hin, hcr, hpost, nofun⟩

/-! ### Legal settings -/

theorem legal_takeLine {o : OperatorLine} (c : Instr) (h : o.Legal) : (o.takeLine c).Legal := by
  rw [← takeLine_frame o c] at h
  exact h

/-- A character received changes no setting. -/
theorem legal_receive {o : OperatorLine} (ch : Byte) (e : Bool) (h : o.Legal) : (o.receive ch e).Legal := by
  unfold OperatorLine.receive OperatorLine.receiveReturn OperatorLine.receiveOther
  dsimp only
  (repeat' split) <;> exact h

@[simp] theorem settings_get_set (v : Settings) (n m : SettingName) (x : Nat) :
    (v.set n x).get m = if m = n then x else v.get m := by cases n <;> cases m <;> rfl

/-- The value taken for a setting lies in its range and on its step; BEACON takes 0 (R171). -/
theorem take_legal (n : SettingName) (v : Nat) : (n = .beacon ∧ n.take v = 0)
    ∨ (n.range.1 ≤ n.take v ∧ n.take v ≤ n.range.2.1 ∧ n.take v % n.range.2.2 = 0) := by
  by_cases h0 : n = .beacon ∧ v = 0
  · exact .inl ⟨h0.1, if_pos h0⟩
  · right
    rw [SettingName.take, if_neg h0]
    cases n <;> simp only [SettingName.range, roundDown, clamp] <;> omega

theorem settings_legal_set {v : Settings} (n : SettingName) (x : Nat) (h : v.Legal) : (v.set n (n.take x)).Legal := by
  intro m
  rw [settings_get_set]
  split
  next hm => subst hm; exact take_legal m x
  · exact h m

@[simp] theorem perClass_get_set {α : Type} (v : PerClass α) (c d : MsgClass) (x : α) :
    (v.set c x).get d = if d = c then x else v.get d := by cases c <;> cases d <;> rfl

/-- A class's settings taken anew: REDUNDANCY in 1-3, and PREEMPT of LIFE ON (R7). -/
theorem classTake_legal {old : ClassSetting} (c : MsgClass) (p : Option Bool) (r : Option Nat)
    (h : 1 ≤ old.redundancy ∧ old.redundancy ≤ 3) :
    (1 ≤ (old.take c p r).redundancy ∧ (old.take c p r).redundancy ≤ 3) ∧ (c = .life → (old.take c p r).preempt = true) := by
  refine ⟨?_, fun hc => by simp [ClassSetting.take, hc]⟩
  cases r with
  | none => exact h
  | some n => simp only [ClassSetting.take, clamp]; omega

theorem stationCode_range {n : Nat} {c : Code} (h : stationCode n = some c) : 1 ≤ c.toNat ∧ c.toNat ≤ 4093 := by
  unfold stationCode at h
  split at h
  · cases h; rw [BitVec.toNat_ofNat]; omega
  · cases h

/-- A callsign as taken has as many characters as typed, each a capital, a digit or "/" (R2). -/
theorem callChars_taken {w t : Text} (h : w.mapM callChar = some t) : t.length = w.length ∧ t.all callByte = true := by
  induction w generalizing t with
  | nil => cases h; exact ⟨rfl, rfl⟩
  | cons c w ih =>
    rw [List.mapM_cons] at h
    obtain ⟨x, hx, h⟩ := Option.bind_eq_some_iff.1 h
    obtain ⟨r, hr, h⟩ := Option.bind_eq_some_iff.1 h
    cases h
    obtain ⟨hl, ha⟩ := ih hr
    have hb : callByte x = true := by
      unfold callChar at hx
      dsimp only at hx
      split at hx
      next hc => cases hx; exact hc
      · cases hx
    exact ⟨congrArg Nat.succ hl, by rw [List.all_cons, hb, ha]; rfl⟩

theorem callArg_legal {args : List Text} {t : Text} (h : callArg args = some t) :
    3 ≤ t.length ∧ t.length ≤ 10 ∧ t.all callByte = true := by
  unfold callArg at h
  split at h
  · split at h
    next hw =>
      obtain ⟨hl, ha⟩ := callChars_taken h
      rw [hl]
      exact ⟨hw.1, hw.2, ha⟩
    · cases h
  · cases h

/-! ### The relation -/

/-- The line within its sizes, its settings legal. -/
def OperatorLine.Sound (o : OperatorLine) : Prop := o.Fits ∧ o.Legal

/-- From `s` to `t` the operator line stays sound, and the Delivery Unit within its bounds. -/
structure Keeps (s t : State) : Prop where
  line : s.ol.Sound → t.ol.Sound
  unit : s.du.Fits → t.du.Fits

namespace Keeps

variable {s u v : State}

theorem refl (s : State) : Keeps s s := ⟨id, id⟩

theorem trans (h : Keeps s u) (g : Keeps u v) : Keeps s v := ⟨g.line ∘ h.line, g.unit ∘ h.unit⟩

/-- What happens behind the line keeps both. -/
theorem behind (h : Keeps s u) (g : Background u v) : Keeps s v := by
  refine h.trans ⟨fun hu => ?_, g.unit⟩
  have hv : v.ol.bare.Fits ∧ v.ol.bare.Legal := by rw [g.line]; exact hu
  exact hv

/-- A change of the operator line that keeps it sound. -/
theorem ol (h : Keeps s u) {x : OperatorLine} (hx : u.ol.Sound → x.Sound) : Keeps s (u.withOl x) := ⟨hx ∘ h.line, h.unit⟩

theorem ite {p : Prop} [Decidable p] (hu : Keeps s u) (hv : Keeps s v) : Keeps s (if p then u else v) := by
  split
  · exact hu
  · exact hv

end Keeps

variable {s u : State}

/-! ### Answers and commands -/

/-- Lines composed on a line of the right sizes and with legal settings. -/
theorem sound_compose (ls : List OutLine) (h : u.ol.Sized ∧ u.ol.Legal) : (compose ls u).ol.Sound :=
  ⟨fits_flush (o := { u.ol with waiting := u.ol.waiting ++ ls }) h.1 _ _, h.2⟩

theorem keeps_compose (ls : List OutLine) (h : Keeps s u) : Keeps s (compose ls u) :=
  h.trans ⟨fun hu => sound_compose ls ⟨(lineFits_iff.1 hu.1).1, hu.2⟩, id⟩

theorem keeps_answer (ls : List Text) (h : Keeps s u) : Keeps s (answer ls u) := keeps_compose _ h

theorem keeps_refuse (r : RefusalCode) (h : Keeps s u) : Keeps s (refuse r u) := keeps_answer _ h

theorem keeps_reply (ws : List Text) (h : Keeps s u) : Keeps s (reply ws u) := keeps_answer _ h

theorem keeps_block (w : Text) (ls : List Text) (h : Keeps s u) : Keeps s (block w ls u) := keeps_answer _ h

theorem keeps_takeLine (c : Instr) (h : Keeps s u) : Keeps s (u.withOl (u.ol.takeLine c)) :=
  h.ol fun hu => ⟨fits_takeLine c hu.1, legal_takeLine c hu.2⟩

/-- A command keeps what its own rule keeps. -/
theorem keeps_command {c : Instr} {need : Option Phase} {act : State → State} (hact : ∀ u, Keeps u (act u)) :
    Keeps s (command c need act s) := by
  have ht := keeps_takeLine c (.refl s)
  exact .ite (.ite (keeps_refuse _ ht) (.ite (keeps_refuse _ ht) (ht.trans (hact _)))) (.refl s)

theorem keeps_withArgs {α : Type} {a : Option α} {act : α → State → State} (hact : ∀ x, a = some x → Keeps u (act x u)) :
    Keeps u (withArgs a act u) := by
  unfold withArgs
  split
  · exact hact _ rfl
  · exact keeps_refuse _ (.refl u)

theorem keeps_unknownCommand (l : OpLine) : Keeps s (unknownCommand l s) := by
  have ht := keeps_takeLine (.unknownCommand l) (.refl s)
  unfold unknownCommand
  split
  · unfold decideUnknown
    split
    · exact ht
    · exact .ite (keeps_refuse _ ht) (.ite (keeps_refuse _ ht) (.ite (keeps_refuse _ ht)
        (.ite (keeps_refuse _ ht) (keeps_refuse _ ht))))
  · exact .refl s

/-! ### Characters and notices -/

theorem keeps_completeFetch (h : Keeps s u) : Keeps s (completeFetch u) := by
  unfold completeFetch
  split
  · exact h
  next i _ =>
    have hm : Background u (modSlot i (fun sl => { sl with unread := false }) (u.withDu { u.du with fetchRef := none })) :=
      background_modSlot _ _ ((Background.refl u).du id)
    dsimp only
    split
    · exact h.behind (.ite (background_freeSlot _ _ hm) hm)
    · exact h.behind hm

theorem keeps_characterSent : Keeps s (characterSent s) := by
  have hs : Keeps s (s.withOl (s.ol.sent 1 s.pins.ohold)) := (Keeps.refl s).ol fun hu => ⟨fits_sent _ _ hu.1, hu.2⟩
  exact .ite (.ite (keeps_completeFetch (hs.ol id)) hs) (.refl s)

theorem keeps_fetchComplete : Keeps s (fetchComplete s) := by
  have hl : (s.ol.fetchSent s.pins.ohold).Legal ↔ s.ol.Legal := by
    unfold OperatorLine.fetchSent
    split <;> exact Iff.rfl
  exact .ite (keeps_completeFetch ((Keeps.refl s).ol fun hu => ⟨fits_fetchSent _ hu.1, hl.2 hu.2⟩)) (.refl s)

/-- A notice is emitted only where its line has room (R177). -/
theorem emittable_fits {o : OperatorLine} {k : Notice} (h : o.emittable = some k) :
    (o.output ++ k.line ++ crlf).length ≤ Config.outputCapacity := by
  unfold OperatorLine.emittable at h
  split at h
  · have hk : o.noticeFits k = true := List.find?_some h
    simpa [OperatorLine.noticeFits, crlf, Nat.add_assoc] using hk
  · cases h

theorem keeps_emitNotice : Keeps s (emitNotice s) := by
  unfold emitNotice
  split
  next hk => exact (Keeps.refl s).ol fun ⟨⟨_, hrest⟩, hl⟩ => ⟨⟨emittable_fits hk, hrest⟩, hl⟩
  · exact .refl s

/-! ### SETUP commands -/

theorem keeps_codeRule (args : List Text) : Keeps u (codeRule args u) := by
  refine keeps_withArgs fun n hn => keeps_reply _ ((Keeps.refl u).ol fun ⟨hf, hset, hcls, hlife, _, hcall, hlive⟩ => ?_)
  obtain ⟨k, -, hk⟩ := Option.bind_eq_some_iff.1 hn
  exact ⟨hf, hset, hcls, hlife, fun c hc => by cases hc; exact stationCode_range hk, hcall, fun hp => ⟨rfl, (hlive hp).2⟩⟩

theorem keeps_callRule (args : List Text) : Keeps u (callRule args u) :=
  keeps_withArgs fun _ ht => keeps_reply _ ((Keeps.refl u).ol fun ⟨hf, hset, hcls, hlife, hcode, _, hlive⟩ =>
    ⟨hf, hset, hcls, hlife, hcode, fun x hx => by cases hx; exact callArg_legal ht, fun hp => ⟨(hlive hp).1, rfl⟩⟩)

theorem keeps_centreRule (args : List Text) : Keeps u (centreRule args u) :=
  keeps_withArgs fun b _ =>
    have hc : Keeps u (u.withOl { u.ol with centre := b }) := (Keeps.refl u).ol id
    keeps_reply _ (hc.behind ((Background.refl _).dt _))

theorem keeps_setSetting (n : SettingName) (v : Nat) : Keeps u (setSetting n v u) :=
  (Keeps.refl u).ol fun ⟨hf, hset, hrest⟩ => ⟨hf, settings_legal_set n v hset, hrest⟩

theorem keeps_hopsRule (args : List Text) : Keeps u (hopsRule args u) :=
  keeps_withArgs fun _ _ => keeps_reply _ (keeps_setSetting _ _)

theorem keeps_timingRule (args : List Text) : Keeps u (timingRule args u) :=
  keeps_withArgs fun _ _ => keeps_reply _ (keeps_setSetting _ _)

theorem keeps_classRule (args : List Text) : Keeps u (classRule args u) := by
  refine keeps_withArgs fun ⟨c, p, r⟩ _ => keeps_reply _ ((Keeps.refl u).ol fun ⟨hf, hset, hcls, hlife, hrest⟩ => ?_)
  obtain ⟨hred, hpre⟩ := classTake_legal c p r (hcls c)
  refine ⟨hf, hset, fun d => ?_, ?_, hrest⟩
  · rw [perClass_get_set]
    split
    · exact hred
    · exact hcls d
  · change ((u.ol.classes.set c ((u.ol.classes.get c).take c p r)).get .life).preempt = true
    rw [perClass_get_set]
    split
    next hc => exact hpre hc.symm
    · exact hlife

theorem keeps_spanRule (args : List Text) : Keeps u (spanRule args u) :=
  keeps_withArgs fun _ _ => keeps_reply _ ((Keeps.refl u).behind ((Background.refl u).dt _))

theorem keeps_faultselRule (args : List Text) : Keeps u (faultselRule args u) :=
  keeps_withArgs fun _ _ => keeps_reply _ ((Keeps.refl u).behind ((Background.refl u).ofm _))

theorem keeps_testRule (t : SelfTest) (args : List Text) : Keeps u (testRule t args u) :=
  keeps_withArgs fun _ _ => (Keeps.refl u).ol id

/-- The part goes LIVE only with a code and a callsign (R174). -/
theorem keeps_onairRule (args : List Text) : Keeps u (onairRule args u) := by
  refine keeps_withArgs fun _ _ => ?_
  split
  next c t hc ht =>
    have hl : Keeps u (u.withOl { u.ol with phase := .live }) :=
      (Keeps.refl u).ol fun ⟨hf, hset, hcls, hlife, hcode, hcall, _⟩ =>
        ⟨hf, hset, hcls, hlife, hcode, hcall, fun _ => ⟨by rw [hc]; rfl, by rw [ht]; rfl⟩⟩
    exact keeps_reply _ (hl.behind ((((((Background.refl _).mp _).ofm _).idt _).dt _).ac _))
  · exact keeps_refuse _ (.refl u)

/-! ### Listings and LIVE commands -/

theorem keeps_statusRule (args : List Text) : Keeps u (statusRule args u) :=
  keeps_withArgs fun _ _ => keeps_block _ _ (.refl u)

theorem keeps_listRule (args : List Text) : Keeps u (listRule args u) := keeps_withArgs fun _ _ => keeps_block _ _ (.refl u)

theorem keeps_routesRule (args : List Text) : Keeps u (routesRule args u) :=
  keeps_withArgs fun _ _ => keeps_block _ _ (.refl u)

theorem keeps_outcomesRule (args : List Text) : Keeps u (outcomesRule args u) :=
  keeps_withArgs fun _ _ => keeps_block _ _ ((Keeps.refl u).behind
    ((Background.refl u).du fun ⟨hl, hn, _, hs⟩ => ⟨hl, hn, Nat.zero_le _, hs⟩))

theorem keeps_writePin (name : String) (c : Code) (b : Bool) : Keeps u (writePin name c b u) :=
  keeps_reply _ ((Keeps.refl u).behind ((Background.refl u).dt _))

theorem keeps_pinRule (args : List Text) : Keeps u (pinRule args u) := by
  refine keeps_withArgs fun _ _ => ?_
  split
  · exact keeps_refuse _ (.refl u)
  · exact .ite (keeps_refuse _ (.refl u)) (keeps_writePin _ _ _)

theorem keeps_unpinRule (args : List Text) : Keeps u (unpinRule args u) := by
  refine keeps_withArgs fun _ _ => ?_
  split
  · exact keeps_refuse _ (.refl u)
  · exact keeps_writePin _ _ _

theorem keeps_purgeRule (args : List Text) : Keeps u (purgeRule args u) :=
  keeps_withArgs fun _ _ => keeps_reply _ ((Keeps.refl u).behind ((Background.refl u).dt _))

theorem keeps_writeMask (k : Notice) (b : Bool) (h : Keeps s u) : Keeps s (writeMask k b u) := keeps_reply _ (h.ol id)

theorem keeps_maskRule (args : List Text) : Keeps u (maskRule args u) :=
  keeps_withArgs fun _ _ => .ite (keeps_refuse _ (.refl u)) (keeps_writeMask _ _ (.refl u))

theorem keeps_unmaskRule (args : List Text) : Keeps u (unmaskRule args u) :=
  keeps_withArgs fun _ _ => keeps_writeMask _ _ (.ite ((Keeps.refl u).ol id) (.refl u))

theorem keeps_faultclrRule (args : List Text) : Keeps u (faultclrRule args u) :=
  keeps_withArgs fun _ _ => keeps_reply _ ((Keeps.refl u).behind (background_clearHeldFaults (.refl u)))

theorem background_setQuiet (b : Bool) (h : Background s u) : Background s (setQuiet b u) := .ite h ((h.ac _).ac _)

theorem keeps_quietRule (args : List Text) : Keeps u (quietRule args u) :=
  keeps_withArgs fun _ _ => keeps_reply _ ((Keeps.refl u).behind (background_setQuiet true (.refl u)))

theorem keeps_resumeRule (args : List Text) : Keeps u (resumeRule args u) :=
  keeps_withArgs fun _ _ => keeps_reply _ ((Keeps.refl u).behind (background_setQuiet false (.refl u)))

theorem keeps_restartRule (args : List Text) : Keeps u (restartRule args u) :=
  keeps_withArgs fun _ _ => keeps_reply _ ((Keeps.refl u).behind ((Background.refl u).ofm _))

/-! ### Posting, fetching, cancelling -/

theorem keeps_postRule (args : List Text) : Keeps u (postRule args u) :=
  (Keeps.refl u).ol fun ⟨⟨hout, hin, hcr, _, hblock⟩, hl⟩ =>
    ⟨⟨hout, hin, hcr, fun c hc => by cases hc; exact Nat.zero_le _, hblock⟩, hl⟩

/-- A body line joins a collection that never holds more than the body buffer (R11). -/
theorem keeps_bodyLine (l : OpLine) : Keeps s (bodyLine l s) := by
  unfold bodyLine
  split
  next c _ =>
    refine .ite (.refl s) ((Keeps.refl s).ol fun ⟨hf, hl⟩ => ?_)
    obtain ⟨hout, hin, hcr, -, hblock⟩ := fits_takeLine (.bodyLine l) hf
    refine ⟨⟨hout, hin, hcr, fun d hd => ?_, hblock⟩, legal_takeLine (.bodyLine l) hl⟩
    cases hd
    exact List.length_take_le ..
  · exact .refl s

theorem keeps_decidePost (c : Collection) (h : Keeps s u) : Keeps s (decidePost c u) := by
  unfold decidePost
  refine .ite (keeps_refuse _ h) ?_
  split
  · exact keeps_refuse _ h
  next dest cls hops _ =>
    refine .ite (keeps_refuse _ h) (.ite (keeps_refuse _ h) (.ite (keeps_refuse _ h) ?_))
    have ht := h.behind (background_takePost ⟨dest, cls, postBudget hops u, c.body⟩ (.refl u))
    unfold answerPost
    dsimp only
    split
    · exact keeps_reply _ ht
    · exact keeps_refuse _ ht

theorem keeps_closingLine : Keeps s (closingLine s) := by
  unfold closingLine
  split
  · refine keeps_decidePost _ ((Keeps.refl s).ol fun ⟨hf, hl⟩ => ?_)
    obtain ⟨hout, hin, hcr, -, hblock⟩ := fits_takeLine .closingLine hf
    exact ⟨⟨hout, hin, hcr, nofun, hblock⟩, legal_takeLine .closingLine hl⟩
  · exact .refl s

theorem keeps_fetchRule (args : List Text) : Keeps u (fetchRule args u) := by
  refine keeps_withArgs fun _ _ => .ite (keeps_refuse _ (.refl u)) ?_
  split
  · exact keeps_refuse _ (.refl u)
  · exact keeps_block _ _ ((Keeps.refl u).behind ((Background.refl u).du id))

theorem keeps_cancelRule (args : List Text) : Keeps u (cancelRule args u) := by
  refine keeps_withArgs fun _ _ => ?_
  dsimp only
  split
  · exact keeps_refuse _ (.refl u)
  · exact .ite (keeps_refuse _ (.refl u)) (keeps_reply _ ((Keeps.refl u).behind (background_freeSlot _ _ (.refl u))))

/-! ### Reset and self-tests -/

theorem sound_reset : OperatorLine.reset.Sound := by
  refine ⟨⟨by decide, by decide, rfl, nofun, nofun⟩, fun n => .inr ?_, fun c => ?_, rfl, nofun, nofun, nofun⟩
  · cases n <;> decide
  · cases c <;> decide

theorem fits_reset : DeliveryUnit.reset.Fits :=
  ⟨Nat.zero_le _, List.nodup_nil, Nat.zero_le _, (by decide : (1 : Serial) ≠ 0)⟩

theorem keeps_resetFrom (rate : BitVec 2) : Keeps s (resetFrom rate s) := ⟨fun _ => sound_reset, fun _ => fits_reset⟩

theorem background_leaves (t : SelfTest) (h : Background s u) : Background s (t.leaves u) := by
  cases t with
  | loopback => exact h
  | frames => exact h
  | identities => exact h.idt _
  | store => exact (h.ms _).idt _

theorem keeps_completeTest (t : SelfTest) : Keeps s (completeTest t s) :=
  keeps_compose _ (((Keeps.refl s).behind (background_leaves t (.refl s))).ol id)

end Sys2Proof.Machine
end

section
/-! SUPPORT. The rows of the channel, the clock and the tables, and the two invariants that every step keeps. -/

namespace Sys2Proof.Machine

variable {s t u : State}

/-! ### Reception -/

theorem background_rxEdge (h : Background s u) : Background s (rxEdge u) :=
  .ite (.ite (background_evaluate (background_reportClocks _ _ (h.mp _))) (h.mp _)) h

theorem background_txEdge (h : Background s u) : Background s (txEdge u) :=
  .ite (.ite (background_evaluate (background_reportClocks _ _ (h.mp _))) (h.mp _)) h

theorem background_reportReceived (e : Received) (h : Background s u) : Background s (reportReceived e u) := by
  unfold reportReceived
  split
  · exact h.fh _
  · exact h.fh _
  · exact h

theorem background_rxcRises (b : Bool) (q : Nibble) (h : Background s u) : Background s (rxcRises b q u) :=
  .ite (background_reportReceived _ (background_rxEdge (h.mp _))) h

theorem background_rxcBrings (row : Received → Bool) (q : Nibble) (l : List Bool) (h : Background s u) :
    Background s (rxcBrings row q l u) :=
  .ite (background_reportReceived _ (background_rxEdge (h.mp _))) h

theorem background_dcdRises (h : Background s u) : Background s (dcdRises u) :=
  .ite (((h.pins _).mp _).ac _) (background_evaluate ((h.pins _).mp _))

theorem background_dcdFalls (h : Background s u) : Background s (dcdFalls u) := by
  have hp := (h.pins { u.pins with dcd := false }).mp { u.mp.loseCarrier with rxWatch := none }
  have ht : Background s (if u.mp.isGathering then countTruncated
      ((u.withPins { u.pins with dcd := false }).withMp { u.mp.loseCarrier with rxWatch := none }) else
      (u.withPins { u.pins with dcd := false }).withMp { u.mp.loseCarrier with rxWatch := none }) := .ite (hp.fh _) hp
  exact background_evaluate (((background_reportClocks _ _ (ht.ofm _)).ofm _).ofm _)

theorem background_receiveClockLoss (e : execReceiveClockLoss s = .next t) : Background s t := by
  unfold execReceiveClockLoss at e
  split at e
  · cases e
    exact .ite (background_evaluate (background_reportClocks _ _ (background_advance _ (.refl s)))) (.refl s)
  · cases e; exact .refl s

theorem background_transmitClockLoss (e : execTransmitClockLoss s = .next t) : Background s t := by
  unfold execTransmitClockLoss at e
  split at e
  · cases e
    exact .ite (background_evaluate (background_reportClocks _ _ (background_advance _ (.refl s)))) (.refl s)
  · cases e; exact .refl s

theorem background_frameTaken (e : execFrameTaken s = .next t) : Background s t := by
  unfold execFrameTaken at e
  split at e
  · cases e; exact background_handleFrame _ _ ((Background.refl s).mp _)
  · cases e; exact .refl s

theorem background_restartAccess (h : Background s u) : Background s (restartAccess u) :=
  (background_evaluateFresh (h.ac _)).ac _

theorem background_restartChannel (h : Background s u) : Background s (restartChannel u) :=
  .ite (background_restartAccess ((background_cutTrain h).mp _)) (.ite ((h.mp _).ac _) (background_restartAccess (h.mp _)))

/-! ### Transmission -/

theorem background_delayEnds (h : Background s u) : Background s (delayEnds u) :=
  .ite (h.ac _) (.ite (h.ac _) (.ite (h.ac _) (background_keyTrain h)))

theorem background_frameDriven (f : TxFrame) (h : Background s u) : Background s (frameDriven f u) :=
  background_follow (background_reportSent f (h.ac _))

theorem background_driveBit (f : TxFrame) (h : Background s u) : Background s (driveBit f u) :=
  .ite (h.mp _) (background_frameDriven f (h.mp _))

theorem background_trainEnds (h : Background s u) : Background s (trainEnds u) :=
  background_evaluateFresh ((background_unkey h).ofm _)

theorem background_txcFalls (h : Background s u) : Background s (txcFalls u) := by
  unfold txcFalls
  split
  · exact h
  · exact .ite (h.mp _) (background_driveBit _ h)
  · exact h.mp _
  · exact background_driveBit _ h
  · exact h.mp _
  · exact .ite (h.mp _) (background_trainEnds h)

theorem background_keyupExpiry (e : execKeyupExpiry s = .next t) : Background s t := by
  unfold execKeyupExpiry at e
  split at e
  · cases e; exact .ite ((background_advance _ (.refl s)).mp _) (.refl s)
  · cases e; exact .refl s

theorem background_frameSent (e : execFrameSent s = .next t) : Background s t := by
  unfold execFrameSent at e
  split at e
  · cases e; exact background_driveBit _ (background_txEdge (.refl s))
  · cases e; exact .refl s

theorem background_timeLimitExpiry (e : execTimeLimitExpiry s = .next t) : Background s t := by
  unfold execTimeLimitExpiry at e
  split at e
  · cases e
    exact .ite (background_evaluateFresh (background_raiseFault .txTimeout
      (background_cutTrain (background_advance _ (.refl s))))) (.refl s)
  · cases e; exact .refl s

/-! ### Deadlines and timers -/

/-- A slot's deadline does what the rule of its state does. -/
theorem background_slotExpiry {i : Fin 64} {st : SlotState} {act : Slot → State → State}
    (hact : ∀ sl u, Background s u → Background s (act sl u)) (e : slotExpiry i st act s = .next t) : Background s t := by
  unfold slotExpiry at e
  split at e
  · split at e
    · cases e; exact .ite (hact _ _ (background_advance _ (.refl s))) (.refl s)
    · cases e; exact .refl s
  · cases e; exact .refl s

theorem background_echoExpires (i : Fin 64) (sl : Slot) (h : Background s u) : Background s (echoExpires i sl u) :=
  .ite (background_toQueueTail i (background_modSlot _ _ h))
    (.ite (background_raiseNotice _ (background_addOutcome _ _ (background_freeSlot _ _ h))) (background_endRelayWork i h))

theorem background_receiptDeadlineExpiry {i : Identity} (e : execReceiptDeadlineExpiry i s = .next t) : Background s t := by
  unfold execReceiptDeadlineExpiry at e
  split at e
  · cases e
    refine background_withPool (.map fun r => ?_) (background_advance _ (.refl s))
    split <;> rfl
  · cases e; exact .refl s

theorem background_identTimerExpiry (e : execIdentTimerExpiry s = .next t) : Background s t := by
  unfold execIdentTimerExpiry at e
  split at e
  · cases e; exact (background_advance _ (.refl s)).ac _
  · cases e; exact .refl s

theorem background_beaconTimerExpiry (e : execBeaconTimerExpiry s = .next t) : Background s t := by
  unfold execBeaconTimerExpiry at e
  split at e
  · cases e; exact ((background_advance _ (.refl s)).ac _).ac _
  · cases e; exact .refl s

theorem background_listeningPeriodEnd (e : execListeningPeriodEnd s = .next t) : Background s t := by
  unfold execListeningPeriodEnd at e
  split at e
  · cases e; exact ((background_advance _ (.refl s)).ac _).ac _
  · cases e; exact .refl s

theorem background_identityTableMinuteEvent (e : execIdentityTableMinuteEvent s = .next t) : Background s t := by
  unfold execIdentityTableMinuteEvent at e
  split at e
  · cases e; exact (background_advance _ (.refl s)).idt _
  · cases e; exact .refl s

theorem background_distanceTableMinuteEvent (e : execDistanceTableMinuteEvent s = .next t) : Background s t := by
  unfold execDistanceTableMinuteEvent at e
  split at e
  · cases e; exact (background_advance _ (.refl s)).dt _
  · cases e; exact .refl s

/-! ### Every row, every step -/

theorem keeps_selfTestComplete (e : execSelfTestComplete s = .next t) : Keeps s t := by
  unfold execSelfTestComplete at e
  split at e
  · cases e; exact keeps_completeTest _
  · cases e; exact .refl s

/-- A row that answers a state which keeps the line and the unit. -/
theorem keeps_next (h : Keeps s u) (e : (.next u : Result) = .next t) : Keeps s t := by cases e; exact h

/-- A row that answers a state reached behind the line. -/
theorem behind_next (h : Background s u) (e : (.next u : Result) = .next t) : Keeps s t := keeps_next ((Keeps.refl s).behind h) e

/-- Every row keeps the operator line sound and the Delivery Unit within its bounds. -/
theorem exec_keeps (c : Instr) (e : exec c s = .next t) : Keeps s t := by
  have b {u : State} (h : Background s u) : Keeps s u := (Keeps.refl s).behind h
  have r : Background s s := .refl s
  cases c with
  | reset rate => exact keeps_next (keeps_resetFrom rate) e
  | characterReceived ch f => exact keeps_next ((Keeps.refl s).ol fun h => ⟨fits_receive ch f h.1, legal_receive ch f h.2⟩) e
  | oholdAsserted => exact behind_next (r.pins _) e
  | oholdDeasserted => exact keeps_next ((b (r.pins { s.pins with ohold := false })).ol (x := s.ol.resume false) id) e
  | characterSent => exact keeps_next keeps_characterSent e
  | outputPlaced => exact keeps_next ((Keeps.refl s).ol fun h => ⟨fits_flush (lineFits_iff.1 h.1).1 _ _, h.2⟩) e
  | noticeEmitted => exact keeps_next keeps_emitNotice e
  | unknownCommand l => exact keeps_next (keeps_unknownCommand l) e
  | code args => exact keeps_next (keeps_command fun _ => keeps_codeRule args) e
  | call args => exact keeps_next (keeps_command fun _ => keeps_callRule args) e
  | centre args => exact keeps_next (keeps_command fun _ => keeps_centreRule args) e
  | hops args => exact keeps_next (keeps_command fun _ => keeps_hopsRule args) e
  | timing args => exact keeps_next (keeps_command fun _ => keeps_timingRule args) e
  | classCmd args => exact keeps_next (keeps_command fun _ => keeps_classRule args) e
  | span args => exact keeps_next (keeps_command fun _ => keeps_spanRule args) e
  | faultsel args => exact keeps_next (keeps_command fun _ => keeps_faultselRule args) e
  | test1 args => exact keeps_next (keeps_command fun _ => keeps_testRule .loopback args) e
  | test2 args => exact keeps_next (keeps_command fun _ => keeps_testRule .frames args) e
  | test3 args => exact keeps_next (keeps_command fun _ => keeps_testRule .identities args) e
  | test4 args => exact keeps_next (keeps_command fun _ => keeps_testRule .store args) e
  | selfTestComplete => exact keeps_selfTestComplete e
  | onair args => exact keeps_next (keeps_command fun _ => keeps_onairRule args) e
  | status args => exact keeps_next (keeps_command fun _ => keeps_statusRule args) e
  | post args => exact keeps_next (keeps_command fun _ => keeps_postRule args) e
  | bodyLine l => exact keeps_next (keeps_bodyLine l) e
  | closingLine => exact keeps_next keeps_closingLine e
  | fetch args => exact keeps_next (keeps_command fun _ => keeps_fetchRule args) e
  | fetchComplete => exact keeps_next keeps_fetchComplete e
  | cancel args => exact keeps_next (keeps_command fun _ => keeps_cancelRule args) e
  | list args => exact keeps_next (keeps_command fun _ => keeps_listRule args) e
  | routes args => exact keeps_next (keeps_command fun _ => keeps_routesRule args) e
  | outcomes args => exact keeps_next (keeps_command fun _ => keeps_outcomesRule args) e
  | pin args => exact keeps_next (keeps_command fun _ => keeps_pinRule args) e
  | unpin args => exact keeps_next (keeps_command fun _ => keeps_unpinRule args) e
  | purge args => exact keeps_next (keeps_command fun _ => keeps_purgeRule args) e
  | mask args => exact keeps_next (keeps_command fun _ => keeps_maskRule args) e
  | unmask args => exact keeps_next (keeps_command fun _ => keeps_unmaskRule args) e
  | faultclr args => exact keeps_next (keeps_command fun _ => keeps_faultclrRule args) e
  | quiet args => exact keeps_next (keeps_command fun _ => keeps_quietRule args) e
  | resume args => exact keeps_next (keeps_command fun _ => keeps_resumeRule args) e
  | restart args => exact keeps_next (keeps_command fun _ => keeps_restartRule args) e
  | channelRestart => exact behind_next (background_restartChannel (r.ofm _)) e
  | dcdAsserted => exact behind_next (.ite r (background_dcdRises r)) e
  | dcdDeasserted => exact behind_next (.ite (background_dcdFalls r) r) e
  | syncFound samples => exact behind_next (background_rxcBrings _ _ samples r) e
  | frameAbandoned samples => exact behind_next (background_rxcBrings _ _ samples r) e
  | skippedFramePassed samples => exact behind_next (background_rxcBrings _ _ samples r) e
  | frameCompletes samples q => exact behind_next (background_rxcBrings _ q samples r) e
  | frameTaken => exact b (background_frameTaken e)
  | handlingEnds => exact behind_next (r.mp _) e
  | windowEnd => exact behind_next (background_passed (passed_windowPasses s) r) e
  | receiveClockLoss => exact b (background_receiveClockLoss e)
  | receiveClockResumes edge =>
    cases edge with
    | falling => exact behind_next (background_rxEdge r) e
    | rising rxd q => exact behind_next (background_rxcRises rxd q r) e
  | transmitClockLoss => exact b (background_transmitClockLoss e)
  | transmitClockResumes edge =>
    cases edge with
    | falling => exact behind_next (background_txcFalls (background_txEdge r)) e
    | rising => exact behind_next (background_txEdge r) e
  | accessDelayEnd => exact behind_next (.ite (background_delayEnds (background_advanceTo _ r)) r) e
  | keyupExpiry => exact b (background_keyupExpiry e)
  | frameSent => exact b (background_frameSent e)
  | trainEnded => exact behind_next (.ite (background_trainEnds (background_txEdge r)) r) e
  | timeLimitExpiry => exact b (background_timeLimitExpiry e)
  | assemblyDeadlineExpiry i => exact b (background_slotExpiry (fun _ _ h => background_freeSlot i .dropped h) e)
  | relayDeadlineExpiry i => exact b (background_slotExpiry (fun _ _ h => background_toQueueTail i h) e)
  | echoDeadlineExpiry i => exact b (background_slotExpiry (fun sl _ h => background_echoExpires i sl h) e)
  | receiptDeadlineExpiry i => exact b (background_receiptDeadlineExpiry e)
  | identTimerExpiry => exact b (background_identTimerExpiry e)
  | beaconTimerExpiry => exact b (background_beaconTimerExpiry e)
  | listeningPeriodEnd => exact b (background_listeningPeriodEnd e)
  | identityTableMinuteEvent => exact b (background_identityTableMinuteEvent e)
  | sweepVisit => exact behind_next (r.idt _) e
  | sweepCompletes => exact behind_next (r.idt _) e
  | distanceTableMinuteEvent => exact b (background_distanceTableMinuteEvent e)
  | agingPassVisit => exact behind_next (r.dt _) e
  | agingPassCompletes => exact behind_next (r.dt _) e

/-- So does a step, whether it runs a command of the queue, a due event or a millisecond. -/
theorem step_keeps (e : step s = .next t) : Keeps s t := by
  unfold step at e
  split at e
  next c rest _ => exact ((Keeps.refl s).behind ((Background.refl s).pending rest)).trans (exec_keeps c e)
  · unfold idle at e
    split at e
    · exact exec_keeps _ e
    · exact behind_next (background_advance _ (.refl s)) e

/-- Settles O54: by the row that the step runs, each of which keeps the line sound. -/
theorem stepKeepsOperatorLine : Obligations.StepKeepsOperatorLine := fun _ _ hf hl e => (step_keeps e).line ⟨hf, hl⟩

/-- Settles O58: by the row that the step runs, each of which keeps the unit within its bounds. -/
theorem stepKeepsDeliveryUnit : Obligations.StepKeepsDeliveryUnit := fun _ _ h e => (step_keeps e).unit h

end Sys2Proof.Machine
end

section
/-! SUPPORT. SETUP commands that set the code, the callsign, CENTRE and a class; POST and its body lines. -/

namespace Sys2Proof.Machine

/-! ### Commands that answer -/

/-- A row that answers over `u`, which has the traffic of the line once it was taken, is answered so. -/
theorem answered_of_taken {c : Instr} {s u r : State} {ls : List Text} (hx : exec c s = .next (answer ls u))
    (ht : (s.ol.takeLine c).calm u.ol = s.ol.takeLine c) (hr : u.calm s = r) : Answered c ls r s := by
  have same {α : Type} (f : OperatorLine → α) : f ((s.ol.takeLine c).calm u.ol) = f (s.ol.takeLine c) := congrArg f ht
  exact answered_of_answer hx (same OperatorLine.lines) (same OperatorLine.ordy)
    ((same OperatorLine.output).trans (takeLine_output s.ol c)) ((same OperatorLine.waiting).trans (takeLine_waiting s.ol c))
    ((same OperatorLine.sending).trans (takeLine_sending s.ol c))
    ((same OperatorLine.blockOpen).trans (takeLine_blockOpen s.ol c))
    ((same OperatorLine.unmasking).trans (takeLine_unmasking s.ol c))
    ((same OperatorLine.fetchLeft).trans (takeLine_fetchLeft s.ol c)) hr

/-- A command whose own rule answers over `u` is answered so. -/
theorem answered_of_rule {c : Instr} {p : Phase} {need : Option Phase} {act : State → State} {s u r : State} {ls : List Text}
    (hx : exec c s = .next (command c need act s)) (h : CanTake p s) (hn : need = none ∨ need = some p)
    (hact : act (s.withOl (s.ol.takeLine c)) = answer ls u) (ht : (s.ol.takeLine c).calm u.ol = s.ol.takeLine c)
    (hr : u.calm s = r) : Answered c ls r s := by
  rw [command_acts h hn, hact] at hx
  exact answered_of_taken hx ht hr

/-- Arguments in their form are handed to the command's rule. -/
theorem withArgs_some {α : Type} {a : Option α} {x : α} (h : a = some x) (act : α → State → State) (s : State) :
    withArgs a act s = act x s := by
  subst h; rfl

@[simp] theorem txt_append (a b : String) : txt (a ++ b) = txt a ++ txt b := by simp [txt]

/-- A space between two words. -/
theorem txt_space : txt " " = [0x20] := by decide

theorem unwords_cons {w v : Text} {ws : List Text} : unwords (w :: v :: ws) = w ++ txt " " ++ unwords (v :: ws) := by
  rw [txt_space]
  simp [unwords]

@[simp] theorem unwords_one (w : Text) : unwords [w] = w := rfl

/-! ### CODE, CALL, CENTRE -/

variable {s : State}

theorem code_answered {args : List Text} {n : Code} (h : CanTake .setup s) (hn : codeArg args = some n) :
    Answered (.code args) [txt "+CODE " ++ decimal n.toNat] (s.withOl { s.ol with ownCode := some n }) s := by
  refine answered_of_rule rfl h (.inr rfl)
    (u := (s.withOl (s.ol.takeLine (.code args))).withOl { s.ol.takeLine (.code args) with ownCode := some n }) ?_ rfl ?_
  · rw [codeRule, withArgs_some hn, reply, unwords_cons, unwords_one, ← txt_append]; rfl
  · simp [State.calm, OperatorLine.calm]

theorem call_answered {args : List Text} {t : Text} (h : CanTake .setup s) (ht : callArg args = some t) :
    Answered (.call args) [txt "+CALL " ++ t] (s.withOl { s.ol with callsign := some t }) s := by
  refine answered_of_rule rfl h (.inr rfl)
    (u := (s.withOl (s.ol.takeLine (.call args))).withOl { s.ol.takeLine (.call args) with callsign := some t }) ?_ rfl ?_
  · rw [callRule, withArgs_some ht, reply, unwords_cons, unwords_one, ← txt_append]; rfl
  · simp [State.calm, OperatorLine.calm]

theorem calm_withDt (s r : State) (x : DistTable) : (s.withDt x).calm r = (s.calm r).withDt x := rfl

/-- Own tier is 0 at a centre, and found from the neighbours elsewhere (R116). -/
theorem retier_eq (b : Bool) (t : DistTable) :
    t.retier b = { t with ownTier := if b then 0 else computeTier false t.singles } := by
  cases b <;> rfl

theorem centre_answered {args : List Text} {b : Bool} (h : CanTake .setup s) (hb : switchArg args = some b) :
    Answered (.centre args) [txt "+CENTRE " ++ onOff b]
      ((s.withOl { s.ol with centre := b }).withDt { s.dt with ownTier := if b then 0 else computeTier false s.dt.singles }) s := by
  refine answered_of_rule rfl h (.inr rfl)
    (u := ((s.withOl (s.ol.takeLine (.centre args))).withOl { s.ol.takeLine (.centre args) with centre := b }).withDt
      (s.dt.retier b)) ?_ rfl ?_
  · rw [centreRule, withArgs_some hb, reply, unwords_cons, unwords_one, ← txt_append]; rfl
  · rw [retier_eq, calm_withDt]; simp [State.calm, OperatorLine.calm]

/-- Settles O12: each rule answers over the state with its one field set. -/
theorem codeCallAndCentreAreSet : Obligations.CodeCallAndCentreAreSet :=
  fun _ h => ⟨fun _ _ => code_answered h, fun _ _ => call_answered h, fun _ _ => centre_answered h⟩

/-! ### CLASS -/

/-- PREEMPT as taken: ON for LIFE, else as given or as it was (R7). -/
theorem classTake_preempt (old : ClassSetting) (c : MsgClass) (p : Option Bool) (r : Option Nat) :
    (old.take c p r).preempt = if c = .life then true else p.getD old.preempt := by
  cases c <;> simp [ClassSetting.take]

/-- REDUNDANCY as taken: the number given clamped to 1-3, else as it was (R7). -/
theorem classTake_redundancy (old : ClassSetting) (c : MsgClass) (p : Option Bool) (r : Option Nat) :
    (old.take c p r).redundancy = (match r with
      | some n => min 3 (max 1 n)
      | none => old.redundancy) := by
  cases r with
  | none => rfl
  | some n => simp only [ClassSetting.take, clamp]; omega

/-- A value given differs from the one taken. -/
theorem any_ne_iff {α : Type} [DecidableEq α] (p : Option α) (x : α) :
    p.any (fun b => b != x) = true ↔ ¬(p = none ∨ p = some x) := by
  cases p <;> simp

/-- CLAMPED is not shown exactly when each value given is the value taken. -/
theorem classChanged_word (new : ClassSetting) (p : Option Bool) (r : Option Nat) :
    clampedWord (classChanged new p r) =
      if (p = none ∨ p = some new.preempt) ∧ (r = none ∨ r = some new.redundancy) then [] else [txt "CLAMPED"] := by
  simp only [clampedWord, classChanged, Bool.or_eq_true, any_ne_iff, ← Decidable.not_and_iff_not_or_not, ite_not]

theorem class_answered {args : List Text} {c : MsgClass} {p : Option Bool} {r : Option Nat} (h : CanTake .setup s)
    (ha : classArgs args = some (c, p, r)) :
    Answered (.classCmd args)
      [unwords (txt "+CLASS" :: classWords c ((s.ol.classes.get c).take c p r)
        ++ clampedWord (classChanged ((s.ol.classes.get c).take c p r) p r))]
      (s.withOl { s.ol with classes := s.ol.classes.set c ((s.ol.classes.get c).take c p r) }) s := by
  refine answered_of_rule rfl h (.inr rfl)
    (u := (s.withOl (s.ol.takeLine (.classCmd args))).withOl { s.ol.takeLine (.classCmd args) with
      classes := s.ol.classes.set c ((s.ol.classes.get c).take c p r) }) ?_ rfl ?_
  · rw [classRule, withArgs_some ha]
    simp only [withOl_ol, takeLine_classes]
    rfl
  · simp [State.calm, OperatorLine.calm]

/-- Settles O14: the class's settings as taken, and its words. -/
theorem classSettingsAreTaken : Obligations.ClassSettingsAreTaken := by
  intro s args c p r h ha
  refine ⟨(s.ol.classes.get c).take c p r, classTake_preempt _ _ _ _, classTake_redundancy _ _ _ _, ?_⟩
  rw [← classChanged_word]
  exact class_answered h ha

/-! ### POST and its body lines -/

/-- A line that begins with "." loses it, and no other line changes (R11). -/
theorem unstuff_eq {t line : Text} (h : t = 0x2E :: line ∨ (t = line ∧ ∀ r, line ≠ 0x2E :: r)) : unstuff t = line := by
  obtain rfl | ⟨rfl, hn⟩ := h
  · rfl
  · unfold unstuff
    split
    next c r => exact if_neg fun hc => hn r (by rw [hc])
    · rfl

/-- The characters that spoil a body are those outside 0x20-0x7E (R11). -/
theorem not_bodyChar (x : Byte) : (!bodyChar x) = decide (x.toNat < 0x20 ∨ 0x7E < x.toNat) := by
  rw [Bool.eq_iff_iff]
  simp [bodyChar]

theorem post_collects {p : Phase} {args : List Text} (h : CanTake p s) :
    exec (.post args) s =
      .next (s.withOl { s.ol.takeLine (.post args) with post := some ⟨args, [], 0, 0, false, false, false⟩ }) :=
  congrArg Host.Outcome.next (command_acts (c := .post args) (act := postRule args) h (.inl rfl))

theorem bodyLine_collects {c : Collection} {l : OpLine} (hc : s.ol.post = some c) (hl : isClosing l = false) :
    exec (.bodyLine l) s = .next (s.withOl { s.ol.takeLine (.bodyLine l) with post := some (c.add l) }) := by
  refine congrArg Host.Outcome.next ?_
  simp [bodyLine, hc, hl]

/-- Settles O19: POST opens a collection, and each body line joins it. -/
theorem postCollectsBodyLines : Obligations.PostCollectsBodyLines := by
  refine ⟨fun s p args h => post_collects h, fun s c l line hc hl hline => ?_⟩
  rw [bodyLine_collects hc hl]
  simp only [Collection.add, bodyPart, unstuff_eq hline, not_bodyChar]
  rfl

end Sys2Proof.Machine
end

section
/-! SUPPORT. FETCH: which message it selects, and how the header and the body are shown. -/

namespace Sys2Proof.Machine

/-! ### The slots that pass a test -/

/-- The slots of a store whose records pass a test, in ascending index. -/
def Store.having (m : Store) (f : Slot → Bool) : List (Fin 64 × Slot) :=
  (List.finRange 64).filterMap fun i => ((look m.slots i).filter f).map fun sl => (i, sl)

theorem mem_having {m : Store} {f : Slot → Bool} {i : Fin 64} {sl : Slot} :
    (i, sl) ∈ m.having f ↔ look m.slots i = some sl ∧ f sl = true := by
  simp only [Store.having, List.mem_filterMap, List.mem_finRange, true_and, Option.map_eq_some_iff, Prod.mk.injEq,
    Option.filter_eq_some_iff]
  constructor
  · rintro ⟨j, x, ⟨hl, hf⟩, rfl, rfl⟩
    exact ⟨hl, hf⟩
  · rintro ⟨hl, hf⟩
    exact ⟨i, sl, ⟨hl, hf⟩, rfl, rfl⟩

theorem having_ascending (m : Store) (f : Slot → Bool) : (m.having f).Pairwise fun x y => x.1 < y.1 := by
  refine List.pairwise_filterMap.2 ((List.pairwise_lt_finRange 64).imp fun {i j} hij x hx y hy => ?_)
  obtain ⟨a, -, rfl⟩ := Option.map_eq_some_iff.1 hx
  obtain ⟨b, -, rfl⟩ := Option.map_eq_some_iff.1 hy
  exact hij

/-- The slots that FETCH may select are those whose record is fetchable. -/
theorem unreads_eq (m : Store) : m.unreads = m.having Slot.fetchable := by
  refine congrArg (fun g => (List.finRange 64).filterMap g) (funext fun i => ?_)
  cases look m.slots i with
  | none => rfl
  | some sl => cases hf : sl.fetchable <;> simp [Option.filter, hf]

theorem mem_unreads {m : Store} {i : Fin 64} {sl : Slot} :
    (i, sl) ∈ m.unreads ↔ look m.slots i = some sl ∧ sl.fetchable = true := by rw [unreads_eq, mem_having]

/-! ### The choice -/

/-- FETCH offers `x` no later than `y`: by class, then completion, then index (R161). -/
def OfferedBy (x y : Fin 64 × Slot) : Prop :=
  x.2.cls.num < y.2.cls.num ∨ (x.2.cls.num = y.2.cls.num ∧ (x.2.completion < y.2.completion
    ∨ (x.2.completion = y.2.completion ∧ x.1 ≤ y.1)))

theorem num_inj {c d : MsgClass} : c.num = d.num ↔ c = d := by cases c <;> cases d <;> decide

theorem OfferedBy.refl (x : Fin 64 × Slot) : OfferedBy x x := .inr ⟨rfl, .inr ⟨rfl, Fin.le_refl _⟩⟩

theorem OfferedBy.trans {x y z : Fin 64 × Slot} (h : OfferedBy x y) (g : OfferedBy y z) : OfferedBy x z := by
  unfold OfferedBy at *
  omega

/-- Of two slots the one picked comes no later than either, the other being of a higher index. -/
theorem pickUnread_offered {b x : Fin 64 × Slot} (h : b.1 ≤ x.1) :
    ∃ y, pickUnread (some b) x = some y ∧ (y = b ∨ y = x) ∧ OfferedBy y b ∧ OfferedBy y x := by
  have hn := @num_inj x.2.cls b.2.cls
  by_cases hx : x.2.cls.num < b.2.cls.num ∨ (x.2.cls = b.2.cls ∧ x.2.completion < b.2.completion)
  · refine ⟨x, if_pos hx, .inr rfl, ?_, .refl x⟩
    rw [← hn] at hx
    unfold OfferedBy
    omega
  · refine ⟨b, if_neg hx, .inl rfl, .refl b, ?_⟩
    rw [← hn] at hx
    unfold OfferedBy
    omega

/-- Over an ascending list, the pick is one of the list and comes no later than any. -/
theorem foldl_pickUnread {l : List (Fin 64 × Slot)} {b : Fin 64 × Slot} (hb : ∀ x ∈ l, b.1 ≤ x.1)
    (hl : l.Pairwise fun x y => x.1 < y.1) :
    ∃ y, l.foldl pickUnread (some b) = some y ∧ y ∈ b :: l ∧ ∀ x ∈ b :: l, OfferedBy y x := by
  induction l generalizing b with
  | nil => exact ⟨b, rfl, List.mem_singleton_self b, fun x hx => List.mem_singleton.1 hx ▸ .refl b⟩
  | cons a l ih =>
    obtain ⟨hal, hl⟩ := List.pairwise_cons.1 hl
    obtain ⟨c, hc, hcm, hcb, hca⟩ := pickUnread_offered (hb a (List.mem_cons_self ..))
    have hcl : ∀ x ∈ l, c.1 ≤ x.1 := by
      intro x hx
      rcases hcm with rfl | rfl
      · exact hb x (List.mem_cons_of_mem _ hx)
      · exact Fin.le_of_lt (hal x hx)
    obtain ⟨y, hy, hym, hyo⟩ := ih hcl hl
    refine ⟨y, by rw [List.foldl_cons, hc, hy], ?_, fun x hx => ?_⟩
    · rcases List.mem_cons.1 hym with rfl | hm
      · rcases hcm with rfl | rfl
        · exact List.mem_cons_self ..
        · exact List.mem_cons_of_mem _ (List.mem_cons_self ..)
      · exact List.mem_cons_of_mem _ (List.mem_cons_of_mem _ hm)
    · have hyc := hyo c (List.mem_cons_self ..)
      rcases List.mem_cons.1 hx with rfl | hx
      · exact hyc.trans hcb
      rcases List.mem_cons.1 hx with rfl | hx
      · exact hyc.trans hca
      · exact hyo x (List.mem_cons_of_mem _ hx)

/-- FETCH without an argument selects a slot that it may, and that none comes before; none when there is none (R161). -/
theorem selectUnread_first (m : Store) :
    (m.unreads = [] ∧ m.selectUnread none = none)
      ∨ ∃ y, m.selectUnread none = some y ∧ y ∈ m.unreads ∧ ∀ x ∈ m.unreads, OfferedBy y x := by
  unfold Store.selectUnread
  have ha := having_ascending m Slot.fetchable
  rw [← unreads_eq] at ha
  cases hu : m.unreads with
  | nil => exact .inl ⟨rfl, rfl⟩
  | cons b l =>
    rw [hu] at ha
    obtain ⟨hb, hl⟩ := List.pairwise_cons.1 ha
    exact .inr (foldl_pickUnread (fun x hx => Fin.le_of_lt (hb x hx)) hl)

theorem selectUnread_best {m : Store} {i : Fin 64} {sl : Slot} (h : m.selectUnread none = some (i, sl)) :
    look m.slots i = some sl ∧ sl.fetchable = true ∧ ∀ j sj, look m.slots j = some sj → sj.fetchable = true →
      sl.cls.num ≤ sj.cls.num ∧ (sj.cls = sl.cls → sl.completion ≤ sj.completion
        ∧ (sj.completion = sl.completion → i ≤ j)) := by
  obtain ⟨-, hn⟩ | ⟨y, hy, hm, ho⟩ := selectUnread_first m
  · rw [hn] at h; cases h
  rw [hy] at h
  cases h
  obtain ⟨hl, hf⟩ := mem_unreads.1 hm
  refine ⟨hl, hf, fun j sj hj hjf => ?_⟩
  have hx := ho (j, sj) (mem_unreads.2 ⟨hj, hjf⟩)
  have hn := @num_inj sj.cls sl.cls
  simp only [OfferedBy] at hx
  rw [← hn]
  omega

theorem selectUnread_none {m : Store} (h : m.selectUnread none = none) {i : Fin 64} {sl : Slot}
    (hi : look m.slots i = some sl) : sl.fetchable = false := by
  obtain ⟨hn, -⟩ | ⟨y, hy, -⟩ := selectUnread_first m
  · refine eq_false_of_ne_true fun hf => ?_
    have hm := mem_unreads.2 ⟨hi, hf⟩
    rw [hn] at hm
    cases hm
  · rw [hy] at h; cases h

theorem selectUnread_named {m : Store} {x : Identity} {i : Fin 64} {sl : Slot} (h : m.selectUnread (some x) = some (i, sl)) :
    look m.slots i = some sl ∧ sl.fetchable = true ∧ sl.id = x := by
  obtain ⟨hl, hf⟩ := mem_unreads.1 (List.mem_of_find?_eq_some h)
  exact ⟨hl, hf, by simpa using List.find?_some h⟩

theorem selectUnread_unnamed {m : Store} {x : Identity} (h : m.selectUnread (some x) = none) {i : Fin 64} {sl : Slot}
    (hi : look m.slots i = some sl) (hx : sl.id = x) : sl.fetchable = false := by
  refine eq_false_of_ne_true fun hf => ?_
  exact List.find?_eq_none.1 h (i, sl) (mem_unreads.2 ⟨hi, hf⟩) (by simpa using hx)

theorem fetchable_iff (sl : Slot) :
    sl.fetchable = true ↔ sl.deliverHere = true ∧ sl.unread = true ∧ sl.state ≠ .assembling := by
  simp [Slot.fetchable, and_assoc]

/-! ### What is shown -/

theorem fetchHeader_words (sl : Slot) :
    fetchHeader sl = txt "+FETCH " ++ decimal sl.id.origin.toNat ++ txt "/" ++ decimal sl.id.serial.toNat ++ txt " " ++ sl.cls.word
      ++ txt " " ++ decimal sl.dest.toNat ++ txt " " ++ decimal sl.bodyLength
      ++ (if sl.answered then txt " ANSWERED" else txt " UNANSWERED") := by
  have h1 : txt "+FETCH " = txt "+FETCH" ++ txt " " := txt_append "+FETCH" " "
  have h2 : (if sl.answered then txt " ANSWERED" else txt " UNANSWERED")
      = txt " " ++ if sl.answered then txt "ANSWERED" else txt "UNANSWERED" := by
    split
    · exact txt_append " " "ANSWERED"
    · exact txt_append " " "UNANSWERED"
  have h3 : identityText sl.id = decimal sl.id.origin.toNat ++ (txt "/" ++ decimal sl.id.serial.toNat) := rfl
  rw [fetchHeader, h1, h2, h3]
  simp only [unwords_cons, unwords_one, List.append_assoc]

/-- A text without the separator is one piece. -/
theorem splitOn_whole {sep : Byte} {a : Text} (h : sep ∉ a) : splitOn sep a = [a] := by
  induction a with
  | nil => rfl
  | cons c a ih =>
    obtain ⟨hc, ha⟩ := not_or.1 (mt List.mem_cons.2 h)
    rw [splitOn, if_neg (Ne.symm hc), ih ha]

/-- A text is cut at its first separator. -/
theorem splitOn_append {sep : Byte} {a : Text} (b : Text) (h : sep ∉ a) :
    splitOn sep (a ++ sep :: b) = a :: splitOn sep b := by
  induction a with
  | nil => rw [List.nil_append, splitOn, if_pos rfl]
  | cons c a ih =>
    obtain ⟨hc, ha⟩ := not_or.1 (mt List.mem_cons.2 h)
    rw [List.cons_append, splitOn, if_neg (Ne.symm hc), ih ha]

/-- A byte of the body as shown is a dot exactly when it is one (R13). -/
theorem shownChar_dot (c : Byte) : shownChar c = 0x2E ↔ c = 0x2E := by
  unfold shownChar
  split
  · exact Iff.rfl
  next h =>
    refine ⟨fun e => absurd e (by decide), fun e => absurd ?_ h⟩
    rw [e]; decide

theorem shownChar_eq (x : Byte) : shownChar x = if 0x20 ≤ x.toNat ∧ x.toNat ≤ 0x7E then x else 0x3F := by
  simp [shownChar, bodyChar]

theorem shownLine_cons {c : Byte} {a shown : Text}
    (h : shown = (c :: a).map (fun x => if 0x20 ≤ x.toNat ∧ x.toNat ≤ 0x7E then x else 0x3F)) :
    shownLine (c :: a) = if c = 0x2E then 0x2E :: shown else shown := by
  have hs : (c :: a).map shownChar = shown := by rw [h]; exact List.map_congr_left fun x _ => shownChar_eq x
  have hd : ((c :: a).map shownChar).head? = some 0x2E ↔ c = 0x2E := by
    rw [List.map_cons, List.head?_cons, Option.some_inj, shownChar_dot]
  simp only [shownLine, hd]
  rw [hs]

/-! ### The command -/

variable {s : State} {args : List Text} {id : Option Identity}

theorem fetch_refused (h : CanTake .live s) (ha : fetchArg args = some id) (hr : s.du.fetchRef.isSome = true) :
    Answered (.fetch args) [txt "-BUSY"] s s := by
  refine answered_of_rule rfl h (.inr rfl) (u := s.withOl (s.ol.takeLine (.fetch args))) ?_ rfl (calm_takeLine s s _)
  rw [fetchRule, withArgs_some ha, withOl_du, if_pos hr]
  rfl

theorem fetch_missed (h : CanTake .live s) (ha : fetchArg args = some id) (hr : s.du.fetchRef = none)
    (hs : s.ms.selectUnread id = none) : Answered (.fetch args) [txt "-NOSUCH"] s s := by
  refine answered_of_rule rfl h (.inr rfl) (u := s.withOl (s.ol.takeLine (.fetch args))) ?_ rfl (calm_takeLine s s _)
  rw [fetchRule, withArgs_some ha]
  simp only [withOl_du, hr, withOl_ms, hs]
  rfl

theorem fetch_shown {i : Fin 64} {sl : Slot} (h : CanTake .live s) (ha : fetchArg args = some id) (hr : s.du.fetchRef = none)
    (hs : s.ms.selectUnread id = some (i, sl)) :
    Answered (.fetch args) (fetchHeader sl :: shownBody (s.ms.body sl) ++ [txt "."]) (s.withDu { s.du with fetchRef := some i }) s := by
  refine answered_of_rule rfl h (.inr rfl)
    (u := (s.withOl (s.ol.takeLine (.fetch args))).withDu { s.du with fetchRef := some i }) ?_ rfl ?_
  · rw [fetchRule, withArgs_some ha]
    simp only [withOl_du, hr, withOl_ms, hs]
    rfl
  · exact congrArg (fun x : State => x.withDu { s.du with fetchRef := some i }) (calm_takeLine s s (.fetch args))

/-- Settles O22: the three answers, the choice among the slots, and how header and body are shown. -/
theorem fetchShowsTheSelectedMessage : Obligations.FetchShowsTheSelectedMessage :=
  ⟨fun _ _ _ h ha => ⟨fetch_refused h ha, fetch_missed h ha, fun _ _ => fetch_shown h ha⟩,
    fun _ _ _ => selectUnread_best,
    fun _ _ _ _ => selectUnread_named,
    fun _ h _ _ => selectUnread_none h,
    fun _ _ h _ _ => selectUnread_unnamed h,
    fun sl => ⟨fetchable_iff sl, fetchHeader_words sl⟩,
    fun _ b h => ⟨congrArg (List.map shownLine) (splitOn_whole h), congrArg (List.map shownLine) (splitOn_append b h)⟩,
    rfl,
    fun _ _ _ => shownLine_cons⟩

end Sys2Proof.Machine
end

section
/-! SUPPORT. Allocation: the victims of a request in their order, and how many of them a plan takes (R77, Table 5-4). -/

namespace Sys2Proof.Machine

/-! ### The victims in order -/

/-- Of two records, the one that is evicted first: the lower class, then the earlier completion (Table 5-4). -/
def EvictedBefore (a b : Slot) : Prop := b.cls.num < a.cls.num ∨ (a.cls.num = b.cls.num ∧ a.completion ≤ b.completion)

theorem victimBefore_iff {a b : Slot} : victimBefore a b = true ↔ EvictedBefore a b := by
  simp [victimBefore, EvictedBefore, num_inj]

theorem EvictedBefore.total (a b : Slot) : EvictedBefore a b ∨ EvictedBefore b a := by
  unfold EvictedBefore
  omega

theorem EvictedBefore.trans {a b c : Slot} (h : EvictedBefore a b) (g : EvictedBefore b c) : EvictedBefore a c := by
  unfold EvictedBefore at *
  omega

/-- A victim put into its place comes to the list, and moves none. -/
theorem insertVictim_perm (x : Fin 64 × Slot) (l : List (Fin 64 × Slot)) : (insertVictim x l).Perm (x :: l) := by
  induction l with
  | nil => exact .refl _
  | cons y l ih =>
    unfold insertVictim
    split
    · exact .refl _
    · exact (ih.cons y).trans (.swap ..)

theorem insertVictim_sorted (x : Fin 64 × Slot) {l : List (Fin 64 × Slot)} (h : l.Pairwise fun a b => EvictedBefore a.2 b.2) :
    (insertVictim x l).Pairwise fun a b => EvictedBefore a.2 b.2 := by
  induction l with
  | nil => exact List.pairwise_singleton ..
  | cons y l ih =>
    obtain ⟨hy, hl⟩ := List.pairwise_cons.1 h
    unfold insertVictim
    split
    next hb =>
      have hxy := victimBefore_iff.1 hb
      refine List.pairwise_cons.2 ⟨fun z hz => ?_, h⟩
      rcases List.mem_cons.1 hz with rfl | hz
      · exact hxy
      · exact hxy.trans (hy z hz)
    next hb =>
      have hyx := (EvictedBefore.total x.2 y.2).resolve_left fun h => hb (victimBefore_iff.2 h)
      refine List.pairwise_cons.2 ⟨fun z hz => ?_, ih hl⟩
      rcases List.mem_cons.1 ((insertVictim_perm x l).mem_iff.1 hz) with rfl | hz
      · exact hyx
      · exact hy z hz

/-- The victims are the eligible slots, each put into its place. -/
theorem victims_eq (m : Store) (p : MsgClass) : m.victims p = (m.having (Slot.eligible p)).foldr insertVictim [] := by
  refine congrArg (fun g => ((List.finRange 64).filterMap g).foldr insertVictim []) (funext fun i => ?_)
  cases look m.slots i with
  | none => rfl
  | some sl => cases hf : sl.eligible p <;> simp [Option.filter, hf]

theorem victims_perm (m : Store) (p : MsgClass) : (m.victims p).Perm (m.having (Slot.eligible p)) := by
  rw [victims_eq]
  induction m.having (Slot.eligible p) with
  | nil => exact .refl _
  | cons x l ih => exact (insertVictim_perm _ _).trans (ih.cons x)

theorem victims_sorted (m : Store) (p : MsgClass) : (m.victims p).Pairwise fun x y => EvictedBefore x.2 y.2 := by
  rw [victims_eq]
  induction m.having (Slot.eligible p) with
  | nil => exact .nil
  | cons x l ih => exact insertVictim_sorted x ih

theorem eligible_iff {p : MsgClass} {sl : Slot} :
    sl.eligible p = true ↔ sl.originated = false ∧ sl.deliverHere = false ∧ p.num < sl.cls.num
      ∧ (sl.state = .assembling ∨ sl.state = .held ∨ sl.state = .await ∨ (sl.state = .queued ∧ sl.resumeAt = 0)) := by
  simp [Slot.eligible, Slot.relayOnly, and_assoc, or_assoc]

theorem mem_victims {m : Store} {p : MsgClass} {i : Fin 64} {sl : Slot} :
    (i, sl) ∈ m.victims p ↔ look m.slots i = some sl ∧ sl.originated = false ∧ sl.deliverHere = false ∧ p.num < sl.cls.num
      ∧ (sl.state = .assembling ∨ sl.state = .held ∨ sl.state = .await ∨ (sl.state = .queued ∧ sl.resumeAt = 0)) := by
  rw [(victims_perm m p).mem_iff, mem_having, eligible_iff]

/-- No slot is a victim twice. -/
theorem victims_nodup (m : Store) (p : MsgClass) : ((m.victims p).map Prod.fst).Nodup := by
  have h : ((m.having (Slot.eligible p)).map Prod.fst).Nodup :=
    List.pairwise_map.2 ((having_ascending m _).imp fun h => Fin.ne_of_lt h)
  exact ((victims_perm m p).map Prod.fst).nodup_iff.2 h

/-! ### How many are taken -/

/-- The blocks that the first `k` victims of a list hold. -/
def blocksOf (l : List (Fin 64 × Slot)) : Nat := (l.map fun x => x.2.attached.length).sum

theorem coverShort_covered (l : List (Fin 64 × Slot)) : coverShort l 0 0 = some [] := by cases l <;> rfl

theorem coverShort_nil {a b : Nat} (h : ¬(a = 0 ∧ b = 0)) : coverShort [] a b = none := by
  cases a with
  | succ a => rfl
  | zero =>
    cases b with
    | succ b => rfl
    | zero => exact absurd ⟨rfl, rfl⟩ h

theorem coverShort_cons {a b : Nat} (x : Fin 64 × Slot) (l : List (Fin 64 × Slot)) (h : ¬(a = 0 ∧ b = 0)) :
    coverShort (x :: l) a b = (coverShort l (a - 1) (b - x.2.attached.length)).map fun vs => x.1 :: vs := by
  cases a with
  | succ a => rfl
  | zero =>
    cases b with
    | succ b => rfl
    | zero => exact absurd ⟨rfl, rfl⟩ h

theorem blocksOf_cons (x : Fin 64 × Slot) (l : List (Fin 64 × Slot)) (k : Nat) :
    blocksOf ((x :: l).take (k + 1)) = x.2.attached.length + blocksOf (l.take k) := by simp [blocksOf]

/-- The first `n` of a list, and no fewer, cover a shortfall of `a` slots and `b` blocks. -/
def CoveredBy (l : List (Fin 64 × Slot)) (a b n : Nat) : Prop := ∀ k ≤ n, k = n ↔ a ≤ k ∧ b ≤ blocksOf (l.take k)

theorem coveredBy_zero {l : List (Fin 64 × Slot)} {n : Nat} : CoveredBy l 0 0 n ↔ n = 0 := by
  refine ⟨fun h => ((h 0 (Nat.zero_le _)).2 ⟨Nat.zero_le _, Nat.zero_le _⟩).symm, ?_⟩
  rintro rfl k hk
  simpa using hk

theorem coveredBy_none {l : List (Fin 64 × Slot)} {a b : Nat} (h : ¬(a = 0 ∧ b = 0)) : ¬CoveredBy l a b 0 := by
  intro hc
  obtain ⟨ha, hb⟩ := (hc 0 (Nat.le_refl _)).1 rfl
  exact h ⟨Nat.le_zero.1 ha, Nat.le_zero.1 hb⟩

theorem coveredBy_cons {x : Fin 64 × Slot} {l : List (Fin 64 × Slot)} {a b n : Nat} (h : ¬(a = 0 ∧ b = 0)) :
    CoveredBy (x :: l) a b (n + 1) ↔ CoveredBy l (a - 1) (b - x.2.attached.length) n := by
  have step (k : Nat) : (a ≤ k + 1 ∧ b ≤ blocksOf ((x :: l).take (k + 1)))
      ↔ (a - 1 ≤ k ∧ b - x.2.attached.length ≤ blocksOf (l.take k)) := by
    rw [blocksOf_cons]
    omega
  constructor
  · intro hc k hk
    rw [← step, ← hc (k + 1) (Nat.succ_le_succ hk)]
    exact (Nat.succ_inj).symm
  · intro hc k hk
    cases k with
    | zero =>
      refine ⟨fun h0 => absurd h0 (Nat.succ_ne_zero n).symm, fun h0 => absurd ?_ h⟩
      exact ⟨Nat.le_zero.1 h0.1, Nat.le_zero.1 h0.2⟩
    | succ k => rw [step, ← hc k (Nat.le_of_succ_le_succ hk)]; exact Nat.succ_inj

/-- The victims taken are the first ones, as many as are needed to cover both shortfalls and no more (R77, steps 3 and 4). -/
theorem coverShort_iff {l : List (Fin 64 × Slot)} {a b : Nat} {vs : List (Fin 64)} :
    coverShort l a b = some vs ↔ ∃ n, n ≤ l.length ∧ vs = (l.take n).map Prod.fst ∧ CoveredBy l a b n := by
  induction l generalizing a b vs with
  | nil =>
    by_cases h : a = 0 ∧ b = 0
    · obtain ⟨rfl, rfl⟩ := h
      simp [coverShort_covered, coveredBy_zero, eq_comm]
    · rw [coverShort_nil h]
      refine ⟨nofun, ?_⟩
      rintro ⟨n, hn, -, hc⟩
      cases Nat.le_zero.1 hn
      exact absurd hc (coveredBy_none h)
  | cons x l ih =>
    by_cases h : a = 0 ∧ b = 0
    · obtain ⟨rfl, rfl⟩ := h
      simp [coverShort_covered, coveredBy_zero, eq_comm]
    · rw [coverShort_cons x l h, Option.map_eq_some_iff]
      constructor
      · rintro ⟨ws, hws, rfl⟩
        obtain ⟨n, hn, rfl, hc⟩ := ih.1 hws
        exact ⟨n + 1, Nat.succ_le_succ hn, rfl, (coveredBy_cons h).2 hc⟩
      · rintro ⟨n, hn, rfl, hc⟩
        cases n with
        | zero => exact absurd hc (coveredBy_none h)
        | succ n => exact ⟨_, ih.2 ⟨n, Nat.le_of_succ_le_succ hn, rfl, (coveredBy_cons h).1 hc⟩, rfl⟩

theorem plan_iff {m : Store} {p : MsgClass} {slots blocks : Nat} {vs : List (Fin 64)} :
    m.plan p slots blocks = some vs ↔ ∃ n, n ≤ (m.victims p).length ∧ vs = ((m.victims p).take n).map Prod.fst
      ∧ ∀ k ≤ n, k = n ↔ slots ≤ m.freeSlots + k ∧ blocks ≤ m.freeBlocks + blocksOf ((m.victims p).take k) := by
  simp only [Store.plan, coverShort_iff, CoveredBy, Nat.sub_le_iff_le_add']

/-- The victims of a request that is met, with their records: held, eligible, none twice, and enough with what is free (R77). -/
theorem plan_victims {m : Store} {p : MsgClass} {slots blocks : Nat} {vs : List (Fin 64)}
    (h : m.plan p slots blocks = some vs) : ∃ l : List (Fin 64 × Slot), vs = l.map Prod.fst ∧ vs.Nodup
      ∧ (∀ x ∈ l, look m.slots x.1 = some x.2 ∧ x.2.eligible p = true)
      ∧ slots ≤ m.freeSlots + l.length ∧ blocks ≤ m.freeBlocks + blocksOf l := by
  obtain ⟨n, hn, rfl, hk⟩ := plan_iff.1 h
  obtain ⟨hs, hb⟩ := (hk n (Nat.le_refl n)).1 rfl
  refine ⟨(m.victims p).take n, rfl, ?_, fun x hx => ?_, ?_, hb⟩
  · rw [List.map_take]; exact (victims_nodup m p).sublist (List.take_sublist ..)
  · have hm := List.mem_of_mem_take hx
    rwa [(victims_perm m p).mem_iff, mem_having] at hm
  · rwa [List.length_take, Nat.min_eq_left hn]

end Sys2Proof.Machine
end

section
/-! SUPPORT. The Identity Table: what a lookup finds after a write, the serial search of a POST, and the entry withdrawn again (R5, R93 to R98, R153). -/

namespace Sys2Proof.Machine

/-! ### Writes in place -/

section Modify

variable {t : IdTable} {f : Entry → Entry}

/-- An entry rewritten under its identity is found by the same lookups. -/
theorem holds_rewritten (hf : ∀ e, (f e).id = e.id) (p q : Spot) (i : Identity) :
    (t.put p ((t.at p).map f)).holds i q = t.holds i q := by
  by_cases h : q = p
  · subst h
    simp only [IdTable.holds, at_put_same]
    cases t.at q with
    | none => rfl
    | some e => exact congrArg (· == i) (hf e)
  · simp only [IdTable.holds, at_put_other h]

theorem find_modify (hf : ∀ e, (f e).id = e.id) (i j : Identity) : (t.modify i f).find j = t.find j := by
  unfold IdTable.modify
  split
  next p _ =>
    have hg (e : Entry) : (f { e with age := 0 }).id = e.id := hf _
    simp only [IdTable.find, spots_put]
    exact congrArg (fun g => (t.spots (bucketOf j)).find? g) (funext fun q => holds_rewritten hg p q j)
  · rfl

/-- A lookup followed by a write renews the entry and rewrites it (R93, R94). -/
theorem entry_modify_same (hf : ∀ e, (f e).id = e.id) (i : Identity) :
    (t.modify i f).entry i = (t.entry i).map fun e => f { e with age := 0 } := by
  rw [IdTable.entry, find_modify hf, IdTable.entry]
  cases h : t.find i with
  | none => rfl
  | some p => simp only [IdTable.modify, h, Option.bind_some, at_put_same]

/-- It touches no other entry. -/
theorem entry_modify_other (hf : ∀ e, (f e).id = e.id) {i j : Identity} (hij : j ≠ i) :
    (t.modify i f).entry j = t.entry j := by
  rw [IdTable.entry, find_modify hf, IdTable.entry]
  cases hj : t.find j with
  | none => rfl
  | some q =>
    simp only [IdTable.modify, Option.bind_some]
    split
    next p hp =>
      refine at_put_other fun h => hij ?_
      subst h
      obtain ⟨e, he, hei⟩ := holds_entry (List.find?_some hp)
      obtain ⟨e', he', hej⟩ := holds_entry (List.find?_some hj)
      rw [he] at he'
      cases he'
      exact hej.symm.trans hei
    · rfl

/-- A place that held no entry holds none after it. -/
theorem at_modify_none {i : Identity} {p : Spot} (h : t.at p = none) : (t.modify i f).at p = none := by
  unfold IdTable.modify
  split
  next q _ =>
    by_cases hq : p = q
    · subst hq; rw [at_put_same, h]; rfl
    · rw [at_put_other hq, h]
  · exact h

theorem sweep_put (t : IdTable) (p : Spot) (e : Option Entry) : (t.put p e).sweep = t.sweep := by cases p <;> rfl

theorem sweep_modify (i : Identity) : (t.modify i f).sweep = t.sweep := by
  unfold IdTable.modify
  split
  · exact sweep_put ..
  · rfl

end Modify

/-! ### A new entry in primary A -/

section Primary

variable {t : IdTable} {e : Entry} {p : Spot}

/-- Where no entry stood, one of another identity written there hides and shows nothing. -/
theorem find_put_other {j : Identity} (hp : t.at p = none) (he : e.id ≠ j) : (t.put p (some e)).find j = t.find j := by
  simp only [IdTable.find, spots_put]
  refine congrArg (fun g => (t.spots (bucketOf j)).find? g) (funext fun q => ?_)
  by_cases h : q = p
  · subst h
    simp [IdTable.holds, hp, he]
  · simp only [IdTable.holds, at_put_other h]

theorem entry_put_other {j : Identity} (hp : t.at p = none) (he : e.id ≠ j) : (t.put p (some e)).entry j = t.entry j := by
  rw [IdTable.entry, find_put_other hp he, IdTable.entry]
  cases hj : t.find j with
  | none => rfl
  | some q =>
    refine at_put_other fun h => ?_
    obtain ⟨x, hx, -⟩ := holds_entry (List.find?_some hj)
    rw [h, hp] at hx
    cases hx

/-- An insert takes primary A when it is free (R95). -/
theorem insert_primA {i : Identity} (d : Disposition) (o : Bool) (hn : t.find i = none) (hA : t.at (.primA (bucketOf i)) = none) :
    t.insert i d o = .inserted (t.put (.primA (bucketOf i)) (some (t.newEntry i d o))) := by
  have hA : (look t.buckets (bucketOf i)).primA.isNone = true := Option.isNone_iff_eq_none.2 hA
  simp only [IdTable.insert, hn, hA, if_true]

theorem place_place {α : Type} {n : Nat} (v : Vector α n) (i : Fin n) (x y : α) : place (place v i x) i y = place v i y := by
  simp [place]

theorem place_look {α : Type} {n : Nat} (v : Vector α n) (i : Fin n) : place v i (look v i) = v := by simp [place, look]

theorem put_put_primA (b : Fin 512) (x y : Option Entry) : (t.put (.primA b) x).put (.primA b) y = t.put (.primA b) y := by
  simp only [IdTable.put, look_place_same, place_place]

theorem put_at_primA (b : Fin 512) : t.put (.primA b) (t.at (.primA b)) = t := by
  change ({ t with buckets := place t.buckets b (look t.buckets b) } : IdTable) = t
  rw [place_look]

/-- The identity entered in primary A and withdrawn again leaves the table as it was (R153, step 3). -/
theorem withdraw_put_primA {i : Identity} (he : e.id = i) (hA : t.at (.primA (bucketOf i)) = none) :
    (t.put (.primA (bucketOf i)) (some e)).withdraw i = t := by
  have hf : (t.put (.primA (bucketOf i)) (some e)).find i = some (.primA (bucketOf i)) := by
    simp [IdTable.find, IdTable.spots, IdTable.holds, he]
  rw [IdTable.withdraw, hf]
  calc (t.put (.primA (bucketOf i)) (some e)).put (.primA (bucketOf i)) none
      = t.put (.primA (bucketOf i)) (t.at (.primA (bucketOf i))) := by rw [put_put_primA, hA]
    _ = t := put_at_primA _

end Primary

/-! ### The serial search -/

/-- An entry after a lookup: its age is 0 (R94). -/
def Entry.renewed (e : Entry) : Entry := { e with age := 0 }

/-- The table once the first `k` serials from `v` on have been looked up and passed over (R5). -/
def passedOver (own : Code) (v : Serial) (t : IdTable) : Nat → IdTable
  | 0 => t
  | k + 1 => (passedOver own v t k).modify ⟨own, Nat.repeat nextSerial k v⟩ id

section Search

variable {own : Code} {v : Serial} {t : IdTable}

theorem passedOver_find (k : Nat) (i : Identity) : (passedOver own v t k).find i = t.find i := by
  induction k with
  | zero => rfl
  | succ k ih => exact (find_modify (f := id) (fun _ => rfl) _ _).trans ih

theorem passedOver_none (k : Nat) {p : Spot} (h : t.at p = none) : (passedOver own v t k).at p = none := by
  induction k with
  | zero => exact h
  | succ k ih => exact at_modify_none ih

theorem passedOver_sweep (k : Nat) : (passedOver own v t k).sweep = t.sweep := by
  induction k with
  | zero => rfl
  | succ k ih => exact (sweep_modify _).trans ih

/-- Serials passed over renew entries, and change nothing else of any. -/
theorem passedOver_entry (k : Nat) (i : Identity) :
    ((passedOver own v t k).entry i).map Entry.renewed = (t.entry i).map Entry.renewed := by
  induction k with
  | zero => rfl
  | succ k ih =>
    rw [← ih, passedOver]
    by_cases h : i = ⟨own, Nat.repeat nextSerial k v⟩
    · subst h
      rw [entry_modify_same (f := id) fun _ => rfl, Option.map_map]
      rfl
    · rw [entry_modify_other (f := id) (fun _ => rfl) h]

/-- The search goes past the serials whose identities the table holds (R153, step 2). -/
theorem chooseSerial_passes {k : Nat} (n : Nat) (h : ∀ j < k, t.find ⟨own, Nat.repeat nextSerial j v⟩ ≠ none) :
    chooseSerial own (k + n) v t = chooseSerial own n (Nat.repeat nextSerial k v) (passedOver own v t k) := by
  induction k generalizing n with
  | zero => rw [Nat.zero_add]; rfl
  | succ k ih =>
    rw [Nat.add_assoc, Nat.add_comm 1 n, ih (n + 1) fun j hj => h j (Nat.lt_succ_of_lt hj)]
    have hk := h k (Nat.lt_succ_self k)
    rw [← passedOver_find (own := own) (v := v) k] at hk
    obtain ⟨p, hp⟩ := Option.ne_none_iff_exists'.1 hk
    simp only [chooseSerial, IdTable.insert, hp]
    rfl

/-- The table that a POST leaves to the allocation: serials passed over, the identity in primary A. -/
def enteredTable (own : Code) (v : Serial) (k : Nat) (t : IdTable) : IdTable :=
  (passedOver own v t k).put (.primA (bucketOf ⟨own, Nat.repeat nextSerial k v⟩))
    (some ⟨⟨own, Nat.repeat nextSerial k v⟩, .stored, none, 0, t.sweep.isSome, true, none, false⟩)

/-- The first free serial is taken when the search comes to it (R5, R153). -/
theorem chooseSerial_found {k : Nat} (hk : k ≤ 1280) (h : ∀ j < k, t.find ⟨own, Nat.repeat nextSerial j v⟩ ≠ none)
    (hn : t.find ⟨own, Nat.repeat nextSerial k v⟩ = none)
    (hA : t.at (.primA (bucketOf ⟨own, Nat.repeat nextSerial k v⟩)) = none) :
    chooseSerial own searchLimit v t = (enteredTable own v k t, some (Nat.repeat nextSerial k v)) := by
  have hl : searchLimit = k + (1280 - k + 1) := by rw [searchLimit]; omega
  have hi := insert_primA .stored true ((passedOver_find k _).trans hn) (passedOver_none (own := own) (v := v) k hA)
  rw [hl, chooseSerial_passes _ h]
  simp only [chooseSerial, hi]
  rw [IdTable.newEntry, passedOver_sweep]
  rfl

/-- The identity entered is found. -/
theorem enteredTable_own {k : Nat} (hn : t.find ⟨own, Nat.repeat nextSerial k v⟩ = none) :
    (enteredTable own v k t).entry ⟨own, Nat.repeat nextSerial k v⟩ =
      some ⟨⟨own, Nat.repeat nextSerial k v⟩, .stored, none, 0, t.sweep.isSome, true, none, false⟩ :=
  entry_put ((passedOver_find k _).trans hn) (by simp [IdTable.spots]) rfl

/-- Every other entry is there as it was, but for its age. -/
theorem enteredTable_other {k : Nat} {i : Identity} (hi : i ≠ ⟨own, Nat.repeat nextSerial k v⟩)
    (hA : t.at (.primA (bucketOf ⟨own, Nat.repeat nextSerial k v⟩)) = none) :
    ((enteredTable own v k t).entry i).map Entry.renewed = (t.entry i).map Entry.renewed := by
  rw [enteredTable, entry_put_other (passedOver_none k hA) (Ne.symm hi), passedOver_entry]

end Search

/-! ### Links removed -/

section Unlink

variable {t : IdTable}

theorem unlink_same (i : Identity) (d : Disposition) :
    (t.unlink i d).entry i = (t.entry i).map fun e => { e with disposition := d, link := none, age := 0 } :=
  entry_modify_same (f := fun e => { e with disposition := d, link := none }) (fun _ => rfl) i

theorem unlink_other {i j : Identity} (d : Disposition) (h : j ≠ i) : (t.unlink i d).entry j = t.entry j :=
  entry_modify_other (f := fun e => { e with disposition := d, link := none }) (fun _ => rfl) h

/-- An entry whose slot went FREE by an eviction (R78, R98). -/
def Entry.evicted (e : Entry) : Entry := { e with disposition := .dropped, link := none, age := 0 }

/-- The links of a list of victims removed: an entry of theirs is DROPPED, any other stays (R78). -/
theorem unlink_all (ids : List Identity) (i : Identity) :
    (ids.foldl (fun t j => t.unlink j .dropped) t).entry i =
      if i ∈ ids then (t.entry i).map Entry.evicted else t.entry i := by
  induction ids generalizing t with
  | nil => rfl
  | cons j ids ih =>
    rw [List.foldl_cons, ih]
    by_cases h : i = j
    · subst h
      rw [unlink_same, Option.map_map, if_pos (List.mem_cons_self ..)]
      exact ite_self _
    · rw [unlink_other _ h]
      simp only [List.mem_cons, h, false_or]

end Unlink

/-- A slot link set: STORED, renewed (R98). -/
theorem link_same {t : IdTable} (i : Identity) (slot : Fin 64) :
    (t.link i slot).entry i = (t.entry i).map fun e => { e with disposition := .stored, link := some slot, age := 0 } :=
  entry_modify_same (f := fun e => { e with disposition := .stored, link := some slot }) (fun _ => rfl) i

theorem link_other {t : IdTable} {i j : Identity} (slot : Fin 64) (h : j ≠ i) : (t.link i slot).entry j = t.entry j :=
  entry_modify_other (f := fun e => { e with disposition := .stored, link := some slot }) (fun _ => rfl) h

end Sys2Proof.Machine
end

section
/-! SUPPORT. The Message Store: slots released, the lowest FREE slot, segments stored one after another, and the body read back (R12, R69 to R71, R75, R83). -/

namespace Sys2Proof.Machine

/-! ### Slots released -/

section Release

variable {m : Store}

theorem look_release (i j : Fin 64) : look (m.release i).slots j = if j = i then none else look m.slots j := by
  unfold Store.release
  split
  · exact look_place_cases ..
  next h =>
    split
    next hj => rw [hj, h]
    · rfl

/-- The blocks that a slot holds. -/
def blocksHeld (o : Option Slot) : List (Fin 384) := (o.map Slot.attached).getD []

theorem release_free (i : Fin 64) : (m.release i).free = m.free ++ blocksHeld (look m.slots i) := by
  unfold Store.release
  split
  next h => rw [h]; rfl
  next h => rw [h]; exact (List.append_nil _).symm

/-- Releasing a slot keeps the blocks' bytes and the note of evictions. -/
theorem release_rest (i : Fin 64) :
    (m.release i).blocks = m.blocks ∧ (m.release i).evictedAt = m.evictedAt ∧ (m.release i).evicted = m.evicted := by
  unfold Store.release
  split <;> exact ⟨rfl, rfl, rfl⟩

theorem allBlocks_eq (m : Store) : m.allBlocks = m.slots.toList.flatMap blocksHeld ++ m.free := by
  refine congrArg (fun g => m.slots.toList.flatMap g ++ m.free) (funext fun o => ?_)
  cases o <;> rfl

/-- The blocks of the slots, those of one of them moved to the end. -/
theorem flatMap_set_perm {n : Nat} (v : Vector (Option Slot) n) (i : Fin n) :
    ((place v i none).toList.flatMap blocksHeld ++ blocksHeld (look v i)).Perm (v.toList.flatMap blocksHeld) := by
  have hi : i.val < v.toList.length := by simp
  have hv : v.toList = v.toList.take i.val ++ look v i :: v.toList.drop (i.val + 1) := by
    have hx : v.toList[i.val] = look v i := by simp [look]
    rw [← hx, ← List.drop_eq_getElem_cons hi, List.take_append_drop]
  have hp : (place v i none).toList = v.toList.take i.val ++ none :: v.toList.drop (i.val + 1) := by
    rw [place, Vector.toList_set, List.set_eq_take_append_cons_drop, if_pos hi]
  rw [hp, congrArg (List.flatMap blocksHeld) hv]
  have hn : blocksHeld none = [] := rfl
  simp only [List.flatMap_append, List.flatMap_cons, List.append_assoc, hn, List.nil_append]
  exact List.Perm.append_left _ List.perm_append_comm

/-- A block of a slot that goes FREE is free (R70, R71). -/
theorem conserved_release (i : Fin 64) (h : m.Conserved) : (m.release i).Conserved := by
  refine List.Perm.trans ?_ h
  have hs : (m.release i).slots = place m.slots i none := by
    unfold Store.release
    split
    · rfl
    next h => rw [← h, place_look]
  rw [allBlocks_eq, allBlocks_eq, release_free, hs, ← List.append_assoc]
  refine List.Perm.trans ?_ ((flatMap_set_perm m.slots i).append_right _)
  rw [List.append_assoc, List.append_assoc]
  exact List.Perm.append_left _ List.perm_append_comm

/-- No block is free twice. -/
theorem free_nodup (h : m.Conserved) : m.free.Nodup := by
  have hn : m.allBlocks.Nodup := h.nodup_iff.2 (List.nodup_finRange 384)
  exact hn.sublist (List.sublist_append_right ..)

/-- Slots released one after another. -/
def Store.releaseAll (m : Store) (vs : List (Fin 64)) : Store := vs.foldl Store.release m

theorem look_releaseAll (vs : List (Fin 64)) (j : Fin 64) :
    look (m.releaseAll vs).slots j = if j ∈ vs then none else look m.slots j := by
  induction vs generalizing m with
  | nil => rfl
  | cons i vs ih =>
    rw [Store.releaseAll, List.foldl_cons, ← Store.releaseAll, ih, look_release]
    by_cases hj : j = i
    · simp [hj]
    · simp [hj]

theorem releaseAll_rest (vs : List (Fin 64)) : (m.releaseAll vs).blocks = m.blocks
    ∧ (m.releaseAll vs).evictedAt = m.evictedAt ∧ (m.releaseAll vs).evicted = m.evicted := by
  induction vs generalizing m with
  | nil => exact ⟨rfl, rfl, rfl⟩
  | cons i vs ih =>
    obtain ⟨hb, ha, he⟩ := release_rest (m := m) i
    rw [Store.releaseAll, List.foldl_cons, ← Store.releaseAll, ← hb, ← ha, ← he]
    exact ih

theorem conserved_releaseAll (vs : List (Fin 64)) (h : m.Conserved) : (m.releaseAll vs).Conserved := by
  induction vs generalizing m with
  | nil => exact h
  | cons i vs ih => exact ih (conserved_release i h)

/-- The victims' blocks join the free list in their order. -/
theorem releaseAll_free {l : List (Fin 64 × Slot)} (hd : (l.map Prod.fst).Nodup) (hl : ∀ x ∈ l, look m.slots x.1 = some x.2) :
    (m.releaseAll (l.map Prod.fst)).free = m.free ++ l.flatMap fun x => x.2.attached := by
  induction l generalizing m with
  | nil => exact (List.append_nil _).symm
  | cons x l ih =>
    obtain ⟨hx, hd⟩ := List.nodup_cons.1 hd
    have hl' : ∀ y ∈ l, look (m.release x.1).slots y.1 = some y.2 := fun y hy => by
      have hyx : y.1 ≠ x.1 := fun e => hx (e ▸ List.mem_map_of_mem hy)
      rw [look_release, if_neg hyx, hl y (List.mem_cons_of_mem _ hy)]
    rw [List.map_cons, Store.releaseAll, List.foldl_cons, ← Store.releaseAll, ih hd hl', release_free,
      hl x (List.mem_cons_self ..), List.flatMap_cons, List.append_assoc]
    rfl

end Release

/-! ### The lowest FREE slot -/

/-- The lowest FREE slot is FREE, and none below it is (R75). -/
theorem lowestFree_some {m : Store} {i : Fin 64} (h : m.lowestFree = some i) :
    look m.slots i = none ∧ ∀ j < i, look m.slots j ≠ none := by
  obtain ⟨hi, k, hk, hki, hj⟩ := List.find?_eq_some_iff_getElem.1 h
  refine ⟨Option.isNone_iff_eq_none.1 hi, fun j hji hn => ?_⟩
  have hkv : k = i.val := by rw [← hki]; simp
  have hjk := hj j.val (hkv ▸ hji)
  simp [hn] at hjk

/-- There is one unless all slots are held. -/
theorem lowestFree_exists {m : Store} {j : Fin 64} (h : look m.slots j = none) : ∃ i, m.lowestFree = some i := by
  refine Option.isSome_iff_exists.1 (List.find?_isSome.2 ⟨j, List.mem_finRange j, ?_⟩)
  rw [h]; rfl

theorem freeSlots_pos {m : Store} (h : 0 < m.freeSlots) : ∃ j, look m.slots j = none := by
  obtain ⟨o, ho⟩ := List.exists_mem_of_length_pos h
  obtain ⟨hm, hn⟩ := List.mem_filter.1 ho
  obtain ⟨k, hk, rfl⟩ := List.getElem_of_mem hm
  exact ⟨⟨k, by simpa using hk⟩, by simpa [look] using hn⟩

/-! ### Segments stored -/

/-- A segment's data stands in the first bytes of the block it is written to (R69). -/
theorem writeBlock_take (old : Vector Byte 64) {data : List Byte} (h : data.length ≤ 64) :
    (writeBlock old data).toList.take data.length = data := by
  refine List.ext_getElem (by rw [List.length_take, Vector.length_toList, Nat.min_eq_left h]) fun k hk hd => ?_
  simp [writeBlock, hd]

/-- From `m` to `m'` the segments `segs` were stored for slot `i`, whose record was `sl` and whose blocks are then `bl`; of the free list `rest` is left (R69). -/
structure SegmentsStored (m m' : Store) (i : Fin 64) (sl : Slot) (segs : List (Fin 8 × List Byte)) (rest : List (Fin 384))
    (bl : Vector (Option (Fin 384)) 8) : Prop where
  record : look m'.slots i = some { sl with blocks := bl }
  others : ∀ j, j ≠ i → look m'.slots j = look m.slots j
  free : m'.free = rest
  note : m'.evictedAt = m.evictedAt ∧ m'.evicted = m.evicted
  kept : ∀ k, k ∉ segs.map Prod.fst → look bl k = look sl.blocks k
  data : ∀ x ∈ segs, ∃ b old, look bl x.1 = some b ∧ look m'.blocks b = writeBlock old x.2

/-- Segments of distinct indices that the slot lacks, stored while free blocks last. -/
theorem attachAll_stored {m : Store} {i : Fin 64} {sl : Slot} {segs : List (Fin 8 × List Byte)} {bs rest : List (Fin 384)}
    (hf : m.free = bs ++ rest) (hn : bs.length = segs.length) (hs : look m.slots i = some sl)
    (hl : ∀ x ∈ segs, look sl.blocks x.1 = none) (hd : (segs.map Prod.fst).Nodup) (hb : bs.Nodup) :
    ∃ bl, SegmentsStored m (m.attachAll i segs) i sl segs rest bl
      ∧ ∀ b, b ∉ bs → look (m.attachAll i segs).blocks b = look m.blocks b := by
  induction segs generalizing m sl bs with
  | nil =>
    cases List.eq_nil_of_length_eq_zero hn
    exact ⟨sl.blocks, ⟨hs, fun _ _ => rfl, hf, ⟨rfl, rfl⟩, fun _ _ => rfl, nofun⟩, fun _ _ => rfl⟩
  | cons x segs ih =>
    obtain ⟨b, bs, rfl⟩ := List.exists_cons_of_length_eq_add_one hn
    obtain ⟨hx, hd⟩ := List.nodup_cons.1 hd
    obtain ⟨hbn, hb⟩ := List.nodup_cons.1 hb
    have ha := attach_held (data := x.2) hf hs (hl x (List.mem_cons_self ..))
    have hm : (m.attach i x.1 x.2).free = bs ++ rest := by rw [ha]; rfl
    have hr : look (m.attach i x.1 x.2).slots i = some { sl with blocks := place sl.blocks x.1 (some b) } := by
      rw [ha]; exact look_place_same ..
    have hl' : ∀ y ∈ segs, look (place sl.blocks x.1 (some b)) y.1 = none := fun y hy => by
      have hyx : y.1 ≠ x.1 := fun e => hx (e ▸ List.mem_map_of_mem hy)
      rw [look_place_other _ _ hyx]
      exact hl y (List.mem_cons_of_mem _ hy)
    obtain ⟨bl, hS, hk⟩ := ih hm (Nat.succ_inj.1 hn) hr hl' hd hb
    have hw : look (m.attach i x.1 x.2).blocks b = writeBlock (look m.blocks b) x.2 := by rw [ha]; exact look_place_same ..
    refine ⟨bl, ⟨hS.record, fun j hj => ?_, hS.free, ?_, fun k hk => ?_, fun y hy => ?_⟩, fun c hc => ?_⟩
    · rw [← look_place_other m.slots (some { sl with blocks := place sl.blocks x.1 (some b) }) hj]
      exact (hS.others j hj).trans (by rw [ha])
    · have hnote : (m.attach i x.1 x.2).evictedAt = m.evictedAt ∧ (m.attach i x.1 x.2).evicted = m.evicted := by
        rw [ha]; exact ⟨rfl, rfl⟩
      exact ⟨hS.note.1.trans hnote.1, hS.note.2.trans hnote.2⟩
    · obtain ⟨hkx, hks⟩ := not_or.1 (mt List.mem_cons.2 hk)
      exact (hS.kept k hks).trans (look_place_other _ _ hkx)
    · rcases List.mem_cons.1 hy with rfl | hy
      · exact ⟨b, look m.blocks b, (hS.kept _ hx).trans (look_place_same ..), (hk b hbn).trans hw⟩
      · exact hS.data y hy
    · obtain ⟨hcb, hcs⟩ := not_or.1 (mt List.mem_cons.2 hc)
      refine (hk c hcs).trans ?_
      rw [ha]
      exact look_place_other _ _ hcb

/-! ### A body cut and read back -/

/-- The bytes of segment `k` of a body (R12). -/
def chunk (body : Text) (k : Nat) : Text := (body.drop (64 * k)).take 64

theorem cutBody_eq (body : Text) :
    cutBody body = (List.range (segments body.length)).map fun k => (Fin.ofNat 8 k, chunk body k) := rfl

/-- The segments of a body, one after another, are its first bytes. -/
theorem flatMap_chunk (body : Text) (n : Nat) : (List.range n).flatMap (chunk body) = body.take (64 * n) := by
  induction n with
  | zero => rfl
  | succ n ih =>
    rw [List.range_succ, List.flatMap_append, ih, List.flatMap_singleton, chunk, Nat.mul_succ, List.take_add]

theorem segments_le {n : Nat} (h : n ≤ 512) : segments n ≤ 8 := by unfold segments; omega

/-- Beyond the last segment of a body there is nothing of it. -/
theorem chunk_beyond {body : Text} {k : Nat} (h : segments body.length ≤ k) : chunk body k = [] := by
  have hl : body.length ≤ 64 * k := by unfold segments at h; omega
  rw [chunk, List.drop_eq_nil_of_le hl, List.take_nil]

/-- Each segment has the size that R12 gives it. -/
theorem chunk_length {body : Text} {k : Nat} (h : k < segments body.length) :
    (chunk body k).length = segmentSize body.length (segments body.length) k := by
  rw [chunk, List.length_take, List.length_drop, segmentSize]
  unfold segments at h ⊢
  split <;> omega

theorem cutBody_indices {body : Text} (h : body.length ≤ 512) : ((cutBody body).map Prod.fst).Nodup := by
  rw [cutBody_eq, List.map_map]
  refine List.pairwise_map.2 ((List.nodup_range).imp_of_mem fun {j k} hj hk hne hjk => hne ?_)
  have hj := Nat.lt_of_lt_of_le (List.mem_range.1 hj) (segments_le h)
  have hk := Nat.lt_of_lt_of_le (List.mem_range.1 hk) (segments_le h)
  have hv := congrArg Fin.val hjk
  simpa [Fin.ofNat, Nat.mod_eq_of_lt hj, Nat.mod_eq_of_lt hk] using hv

theorem cutBody_mem {body : Text} {k : Fin 8} (h : k.val < segments body.length) : (k, chunk body k.val) ∈ cutBody body := by
  rw [cutBody_eq]
  refine List.mem_map.2 ⟨k.val, List.mem_range.2 h, ?_⟩
  rw [Prod.mk.injEq]
  exact ⟨Fin.ext (Nat.mod_eq_of_lt k.isLt), rfl⟩

/-- The body of a slot in which the segments of a body are stored is that body (R12, R13). -/
theorem body_read {m m' : Store} {i : Fin 64} {sl : Slot} {body : Text} {rest : List (Fin 384)}
    {bl : Vector (Option (Fin 384)) 8} (h : SegmentsStored m m' i sl (cutBody body) rest bl) (hb : body.length ≤ 512)
    (hl : sl.bodyLength = body.length) (hc : sl.count = segments body.length) :
    m'.body { sl with blocks := bl } = body := by
  have hseg (k : Fin 8) : (if k.val < sl.count then m'.segment { sl with blocks := bl } k else []) = chunk body k.val := by
    rw [hc]
    split
    next hk =>
      obtain ⟨b, old, hbl, hdata⟩ := h.data _ (cutBody_mem hk)
      have hlen : (chunk body k.val).length ≤ 64 := List.length_take_le ..
      simp only [Store.segment, hbl, hdata, hl]
      rw [← chunk_length hk, writeBlock_take old hlen]
    next hk => exact (chunk_beyond (Nat.le_of_not_lt hk)).symm
  calc m'.body { sl with blocks := bl }
      = (List.finRange 8).flatMap fun k => chunk body k.val := congrArg (fun g => (List.finRange 8).flatMap g) (funext hseg)
    _ = (List.range 8).flatMap (chunk body) := by rw [show List.range 8 = (List.finRange 8).map Fin.val from rfl, List.flatMap_map]
    _ = body := by rw [flatMap_chunk, List.take_of_length_le hb]

end Sys2Proof.Machine
end

section
/-! SUPPORT. A POST whose checks pass: the victims evicted, the message placed, the answer (R77, R78, R83, R153). -/

namespace Sys2Proof.Machine

/-! ### Victims evicted -/

/-- From `s` to `t` the slots of `l` were evicted one after another, and nothing else was done (R71, R78). -/
structure Evicted (l : List (Fin 64 × Slot)) (s t : State) : Prop where
  ms : t.ms = s.ms.releaseAll (l.map Prod.fst)
  idt : t.idt = (l.map fun x => x.2.id).foldl (fun t j => t.unlink j .dropped) s.idt
  queues : ∀ c, (∀ x ∈ l, x.2.cls ≠ c) → t.ac.queues.get c = s.ac.queues.get c
  fh : t.fh = { s.fh with dropped := Nat.repeat satInc l.length s.fh.dropped }
  ol : t.ol = { s.ol with notices := if l = [] then s.ol.notices else s.ol.notices.put .dropped true }
  du : t.du = s.du
  others : t.mp = s.mp ∧ t.ofm = s.ofm ∧ t.dt = s.dt ∧ t.pins = s.pins ∧ t.now = s.now

/-- An operation repeated once more, the first time first. -/
theorem repeat_succ {α : Type} (f : α → α) (n : Nat) (x : α) : Nat.repeat f (n + 1) x = Nat.repeat f n (f x) := by
  induction n with
  | zero => rfl
  | succ n ih => exact congrArg f ih

theorem evicted_one {s : State} {i : Fin 64} {sl : Slot} (h : look s.ms.slots i = some sl) : Evicted [(i, sl)] s (evict i s) := by
  obtain ⟨hms, hidt, hq⟩ := freeSlot_held .dropped h
  have hf := freeSlot_frame i .dropped s
  have same {α : Type} (f : State → α) : f ((((freeSlot i .dropped s).withMs s.ms).withIdt s.idt).withAc s.ac) = f s :=
    congrArg f hf
  have hfh : (freeSlot i .dropped s).fh = s.fh := same State.fh
  have hol : (freeSlot i .dropped s).ol = s.ol := same State.ol
  refine ⟨hms, hidt, fun c hc => ?_, ?_, ?_, same State.du, same State.mp, same State.ofm, same State.dt, same State.pins,
    same State.now⟩
  · have hcls : c ≠ sl.cls := fun e => hc (i, sl) (List.mem_singleton_self _) e.symm
    change (freeSlot i .dropped s).ac.queues.get c = _
    rw [hq]
    split
    · rw [leave_get, if_neg hcls]
    · rfl
  · rw [← hfh]; rfl
  · rw [← hol]; rfl

theorem evicted_cons {l : List (Fin 64 × Slot)} {x : Fin 64 × Slot} {s u t : State} (h : Evicted [x] s u) (g : Evicted l u t) :
    Evicted (x :: l) s t where
  ms := by rw [g.ms, h.ms]; rfl
  idt := by rw [g.idt, h.idt]; rfl
  queues c hc := (g.queues c fun y hy => hc y (List.mem_cons_of_mem _ hy)).trans
    (h.queues c fun y hy => List.mem_singleton.1 hy ▸ hc x (List.mem_cons_self ..))
  fh := by
    rw [g.fh, h.fh]
    exact congrArg (fun n => { s.fh with dropped := n }) (repeat_succ satInc l.length s.fh.dropped).symm
  ol := by
    rw [g.ol, h.ol]
    by_cases hl : l = []
    · simp [hl]
    · simp [hl, NoticeSet.put]
  du := g.du.trans h.du
  others := by
    obtain ⟨h1, h2, h3, h4, h5⟩ := h.others
    rw [← h1, ← h2, ← h3, ← h4, ← h5]
    exact g.others

/-- Slots that are held, none named twice, are evicted one after another. -/
theorem evicted_all {l : List (Fin 64 × Slot)} {s : State} (hd : (l.map Prod.fst).Nodup)
    (hl : ∀ x ∈ l, look s.ms.slots x.1 = some x.2) :
    Evicted l s ((l.map Prod.fst).foldl (fun s i => evict i s) s) := by
  induction l generalizing s with
  | nil => exact ⟨rfl, rfl, fun _ _ => rfl, rfl, rfl, rfl, rfl, rfl, rfl, rfl, rfl⟩
  | cons x l ih =>
    obtain ⟨hx, hd⟩ := List.nodup_cons.1 hd
    have h1 := evicted_one (hl x (List.mem_cons_self ..))
    refine evicted_cons h1 (ih hd fun y hy => ?_)
    have hyx : y.1 ≠ x.1 := fun e => hx (e ▸ List.mem_map_of_mem hy)
    rw [h1.ms]
    exact (look_release x.1 y.1).trans ((if_neg hyx).trans (hl y (List.mem_cons_of_mem _ hy)))

/-! ### The message placed -/

/-- From `u` to `t` a posted message was placed in slot `i`, whose blocks are then `bl` (R83, R136, R153). -/
structure PostPlaced (p : Posting) (id : Identity) (i : Fin 64) (bl : Vector (Option (Fin 384)) 8) (u t : State) : Prop where
  store : SegmentsStored u.ms t.ms i (postedSlot p id u) (cutBody p.body) (u.ms.free.drop (segments p.body.length)) bl
  idt : t.idt = u.idt.link id i
  queues : t.ac.queues = joinTail u.ac.queues p.cls i
  du : t.du = { u.du with serial := nextSerial id.serial }
  line : t.ol = u.ol ∧ t.fh = u.fh
  others : t.mp = u.mp ∧ t.ofm = u.ofm ∧ t.dt = u.dt ∧ t.pins = u.pins ∧ t.now = u.now

/-- Segments stored in a slot that was FREE until it took its record. -/
theorem segmentsStored_occupied {m m' : Store} {i : Fin 64} {sl sl' : Slot} {segs : List (Fin 8 × List Byte)}
    {rest : List (Fin 384)} {bl : Vector (Option (Fin 384)) 8} (hi : look m.slots i = none)
    (h : SegmentsStored (m.occupy i sl) m' i sl' segs rest bl) : SegmentsStored m m' i sl' segs rest bl := by
  have hocc : m.occupy i sl = { m with slots := place m.slots i (some { sl with blocks := Vector.replicate 8 none }) } := if_pos hi
  rw [hocc] at h
  exact ⟨h.record, fun j hj => (h.others j hj).trans (look_place_other _ _ hj), h.free, h.note, h.kept, h.data⟩

/-- With a FREE slot and enough free blocks a posted message is placed in the lowest FREE slot. -/
theorem postPlaced {p : Posting} {id : Identity} {i : Fin 64} {u : State} (hi : u.ms.lowestFree = some i)
    (hb : p.body.length ≤ 512) (hn : segments p.body.length ≤ u.ms.free.length) (hd : u.ms.free.Nodup) :
    ∃ bl, PostPlaced p id i bl u (placePosted p id u) := by
  have hfree := (lowestFree_some hi).1
  have hocc : u.ms.occupy i (postedSlot p id u) = { u.ms with slots := place u.ms.slots i (some (postedSlot p id u)) } :=
    if_pos hfree
  have hsegs : (u.ms.free.take (segments p.body.length)).length = (cutBody p.body).length := by
    rw [List.length_take, Nat.min_eq_left hn, cutBody_eq, List.length_map, List.length_range]
  obtain ⟨bl, hS, -⟩ := attachAll_stored (m := u.ms.occupy i (postedSlot p id u)) (i := i) (sl := postedSlot p id u)
    (segs := cutBody p.body) (rest := u.ms.free.drop (segments p.body.length))
    (by rw [hocc]; exact (List.take_append_drop (segments p.body.length) u.ms.free).symm) hsegs
    (by rw [hocc]; exact look_place_same ..) (fun _ _ => look_replicate ..) (cutBody_indices hb)
    (hd.sublist (List.take_sublist ..))
  have hplace : placePosted p id u = enqueueTail p.cls i
      (createSlot i (postedSlot p id u) (cutBody p.body) (u.withDu { u.du with serial := nextSerial id.serial })) := by
    rw [placePosted, hi]
  have hms : (placePosted p id u).ms = (u.ms.occupy i (postedSlot p id u)).attachAll i (cutBody p.body) := by
    rw [hplace]
    simp only [enqueueTail, evaluate_ms, withAc_ms, createSlot, withIdt_ms, withMs_ms, withDu_ms]
  have hstore := segmentsStored_occupied hfree hS
  rw [← hms] at hstore
  refine ⟨bl, hstore, ?_, ?_, ?_, ?_, ?_⟩
  all_goals rw [hplace]
  · rfl
  · exact (enqueueTail_frame ..).2
  · rfl
  · exact ⟨rfl, rfl⟩
  · simp [enqueueTail, createSlot]

/-! ### The Delivery Unit takes a POST -/

/-- The state once the identity is entered and the victims are noted. -/
def victimsNoted (own : Code) (k : Nat) (vs : List (Fin 64)) (s : State) : State :=
  (s.withIdt (enteredTable own s.du.serial k s.idt)).withMs (s.ms.noteVictims s.now vs)

/-- The state once the victims noted are evicted. -/
def afterVictims (own : Code) (k : Nat) (vs : List (Fin 64)) (s : State) : State :=
  vs.foldl (fun s i => evict i s) (victimsNoted own k vs s)

theorem plan_noteVictims (m : Store) (now : Nat) (ws : List (Fin 64)) (p : MsgClass) (slots blocks : Nat) :
    (m.noteVictims now ws).plan p slots blocks = m.plan p slots blocks := by
  simp [Store.plan, Store.victims, Store.freeSlots, Store.freeBlocks]

theorem conserved_noteVictims {m : Store} (now : Nat) (ws : List (Fin 64)) (h : m.Conserved) :
    (m.noteVictims now ws).Conserved := by
  unfold Store.Conserved Store.allBlocks at *
  rwa [noteVictims_slots, noteVictims_free]

/-- The allocation notes and evicts the victims of the plan (R77, R78). -/
theorem allocatePost_some {p : MsgClass} {n : Nat} {s : State} {vs : List (Fin 64)} (h : s.ms.plan p 1 n = some vs) :
    allocatePost p n s = some (vs.foldl (fun s i => evict i s) (s.withMs (s.ms.noteVictims s.now vs))) := by
  simp only [allocatePost, allocate, withMs_ms, plan_noteVictims, h, Option.getD_some, Option.map_some]

section Take

variable {s : State} {p : Posting} {own : Code}

theorem takePost_accepted {k : Nat} {vs : List (Fin 64)} (ho : s.ol.ownCode = some own) (hk : k ≤ 1280)
    (hs : ∀ j < k, s.idt.find ⟨own, Nat.repeat nextSerial j s.du.serial⟩ ≠ none)
    (hn : s.idt.find ⟨own, Nat.repeat nextSerial k s.du.serial⟩ = none)
    (hA : s.idt.at (.primA (bucketOf ⟨own, Nat.repeat nextSerial k s.du.serial⟩)) = none)
    (hp : s.ms.plan p.cls 1 (segments p.body.length) = some vs) :
    takePost p s = (some ⟨own, Nat.repeat nextSerial k s.du.serial⟩,
      placePosted p ⟨own, Nat.repeat nextSerial k s.du.serial⟩ (afterVictims own k vs s)) := by
  have ha := allocatePost_some (s := s.withIdt (enteredTable own s.du.serial k s.idt)) hp
  simp only [takePost, ho, Option.getD_some, chooseSerial_found hk hs hn hA, ha]
  rfl

/-- With too few victims nothing is taken (R77, step 4; R153, step 3). -/
theorem takePost_crowded (ho : s.ol.ownCode = some own) (hn : s.idt.find ⟨own, s.du.serial⟩ = none)
    (hA : s.idt.at (.primA (bucketOf ⟨own, s.du.serial⟩)) = none)
    (hp : s.ms.plan p.cls 1 (segments p.body.length) = none) : takePost p s = (none, s) := by
  have hc := chooseSerial_found (own := own) (v := s.du.serial) (k := 0) (Nat.zero_le _) nofun hn hA
  have ha := allocatePost_none (s := s.withIdt (enteredTable own s.du.serial 0 s.idt)) hp
  have hw : (enteredTable own s.du.serial 0 s.idt).withdraw ⟨own, s.du.serial⟩ = s.idt := withdraw_put_primA rfl hA
  simp only [takePost, ho, Option.getD_some, hc, ha]
  exact congrArg (fun t => (none, s.withIdt t)) hw

/-- With no place for the identity nothing is taken (R97). -/
theorem takePost_failed (ho : s.ol.ownCode = some own) (hf : s.idt.insert ⟨own, s.du.serial⟩ .stored true = .failed) :
    takePost p s = (none, s) := by
  have hc : chooseSerial own searchLimit s.du.serial s.idt = (s.idt, none) := by
    simp only [searchLimit, chooseSerial, hf]
  simp only [takePost, ho, Option.getD_some, hc]
  rfl

end Take

/-! ### The closing line -/

/-- The state once the closing line is taken and the collection has ended. -/
def afterClosing (s : State) : State := s.withOl { s.ol.takeLine .closingLine with post := none }

section Closing

variable {s : State} {c : Collection} {a : Code × MsgClass × Option Nat} {own : Code}

/-- A POST that passes every check comes to the Delivery Unit (R172). -/
theorem closingLine_ready (h : PostReady s c a own) :
    exec .closingLine s = .next (answerPost a.1 a.2.1 a.2.2 c.body (afterClosing s)) := by
  obtain ⟨hc, hlive, -, hargs, ⟨hov, hlong, hbad⟩, -, hlo, hhi⟩ := h
  have hlive' : (!(afterClosing s).isLive) = false := by simp [afterClosing, hlive]
  have hargs' : postArgs (afterClosing s).ol.ownCode c.args = some a := by simp [afterClosing, hargs]
  have hsome : (c.total == 0) = false := beq_eq_false_iff_ne.2 (Nat.ne_of_gt hlo)
  have hroom : decide (Config.bodyCapacity < c.total) = false := decide_eq_false (Nat.not_lt_of_le hhi)
  have hd : decidePost c (afterClosing s) = answerPost a.1 a.2.1 a.2.2 c.body (afterClosing s) := by
    simp only [decidePost, hlive', hargs', hov, hlong, hsome, hroom, hbad, Bool.or_false, Bool.false_eq_true, if_false]
  have hx : closingLine s = decidePost c (afterClosing s) := by simp only [closingLine, hc, afterClosing]
  exact congrArg Host.Outcome.next (hx.trans hd)

/-- A POST of which nothing was taken is answered FULL (R153). -/
theorem full_answered (h : PostReady s c a own)
    (ht : ∀ p : Posting, p.cls = a.2.1 → p.body.length = c.total → takePost p (afterClosing s) = (none, afterClosing s)) :
    Answered .closingLine [txt "-FULL"] (s.withOl { s.ol with post := none }) s := by
  refine answered_of_taken (u := afterClosing s) ?_ rfl ?_
  · rw [closingLine_ready h, answerPost]
    simp only [ht ⟨a.1, a.2.1, _, c.body⟩ rfl h.whole.symm]
    rfl
  · simp [afterClosing, State.calm, OperatorLine.calm]

end Closing

end Sys2Proof.Machine
end

section
/-! SUPPORT. The accepted POST: what the store, the queues and the table are once its message stands in its slot (R77, R78, R83, R153). -/

namespace Sys2Proof.Machine

/-- Victims of a message of class `p`, none named twice (R77, Table 5-4). -/
structure VictimsOf (p : MsgClass) (l : List (Fin 64 × Slot)) (m : Store) : Prop where
  distinct : (l.map Prod.fst).Nodup
  eligible : ∀ x ∈ l, look m.slots x.1 = some x.2 ∧ x.2.eligible p = true

section Victims

variable {m : Store} {p : MsgClass} {l : List (Fin 64 × Slot)}

theorem VictimsOf.class_lower (hv : VictimsOf p l m) : ∀ x ∈ l, x.2.cls ≠ p := fun x hx he => by
  obtain ⟨-, -, hlt, -⟩ := eligible_iff.1 (hv.eligible x hx).2
  exact absurd hlt (he ▸ Nat.lt_irrefl _)

/-- A slot among the victims is there with its record. -/
theorem VictimsOf.record (hv : VictimsOf p l m) {j : Fin 64} {sl : Slot} (hj : j ∈ l.map Prod.fst)
    (hs : look m.slots j = some sl) : (j, sl) ∈ l := by
  obtain ⟨x, hx, rfl⟩ := List.mem_map.1 hj
  have he : x.2 = sl := Option.some_inj.1 ((hv.eligible x hx).1.symm.trans hs)
  exact he ▸ hx

/-- The states in which a victim is noted are HELD and QUEUED (n31). -/
theorem mayStandDown_of_eligible {sl : Slot} (h : sl.eligible p = true) :
    sl.mayStandDown = true ↔ sl.state = .held ∨ sl.state = .queued := by
  obtain ⟨ho, hd, -, hst⟩ := eligible_iff.1 h
  rcases hst with h | h | h | ⟨h, hr⟩
  · simp [Slot.mayStandDown, h]
  · simp [Slot.mayStandDown, h]
  · simp [Slot.mayStandDown, h]
  · simp [Slot.mayStandDown, Slot.relayOnly, h, hr, ho, hd]

end Victims

section Evicted

variable {s u : State} {own : Code} {k : Nat} {p : MsgClass} {l : List (Fin 64 × Slot)}

/-- The victims noted are evicted. -/
theorem evicted_afterVictims (hv : VictimsOf p l s.ms) :
    Evicted l (victimsNoted own k (l.map Prod.fst) s) (afterVictims own k (l.map Prod.fst) s) :=
  evicted_all hv.distinct fun x hx => (congrArg (look · x.1) (noteVictims_slots ..)).trans (hv.eligible x hx).1

variable (hE : Evicted l (victimsNoted own k (l.map Prod.fst) s) u)
include hE

theorem Evicted.store : u.ms = (s.ms.noteVictims s.now (l.map Prod.fst)).releaseAll (l.map Prod.fst) := hE.ms

theorem Evicted.slot (j : Fin 64) : look u.ms.slots j = if j ∈ l.map Prod.fst then none else look s.ms.slots j := by
  rw [hE.store, look_releaseAll, noteVictims_slots]

theorem Evicted.slot_free (j : Fin 64) : look u.ms.slots j = none ↔ look s.ms.slots j = none ∨ j ∈ l.map Prod.fst := by
  rw [hE.slot]
  by_cases h : j ∈ l.map Prod.fst <;> simp [h]

/-- There is a FREE slot after the eviction when there was one before, or a victim. -/
theorem Evicted.lowestFree (hn : 1 ≤ s.ms.freeSlots + l.length) : ∃ i, u.ms.lowestFree = some i := by
  have hj : ∃ j, look u.ms.slots j = none := by
    cases l with
    | nil =>
      obtain ⟨j, hj⟩ := freeSlots_pos hn
      exact ⟨j, (hE.slot_free j).2 (.inl hj)⟩
    | cons x l => exact ⟨x.1, (hE.slot_free x.1).2 (.inr (List.mem_cons_self ..))⟩
  obtain ⟨j, hj⟩ := hj
  exact lowestFree_exists hj

theorem Evicted.free (hv : VictimsOf p l s.ms) : u.ms.free = s.ms.free ++ l.flatMap fun x => x.2.attached := by
  rw [hE.store, releaseAll_free hv.distinct fun x hx => by rw [noteVictims_slots]; exact (hv.eligible x hx).1,
    noteVictims_free]

theorem Evicted.free_length (hv : VictimsOf p l s.ms) : u.ms.free.length = s.ms.freeBlocks + blocksOf l := by
  rw [hE.free hv, List.length_append, List.length_flatMap]
  rfl

theorem Evicted.free_nodup (hc : s.ms.Conserved) : u.ms.free.Nodup := by
  rw [hE.store]
  exact Machine.free_nodup (conserved_releaseAll _ (conserved_noteVictims _ _ hc))

/-- The note holds the victims that were HELD or QUEUED, as they stood, with what it held of this moment (Table 8-6, n31). -/
theorem Evicted.noted (hv : VictimsOf p l s.ms) (x : Slot) : (u.ms.evictedAt = s.now ∧ x ∈ u.ms.evicted) ↔
    (s.ms.evictedAt = s.now ∧ x ∈ s.ms.evicted)
      ∨ ∃ j ∈ l.map Prod.fst, look s.ms.slots j = some x ∧ (x.state = .held ∨ x.state = .queued) := by
  obtain ⟨-, hat, hev⟩ := releaseAll_rest (m := s.ms.noteVictims s.now (l.map Prod.fst)) (l.map Prod.fst)
  rw [hE.store, hat, hev, mem_noteVictims]
  exact or_congr_right (exists_congr fun j => and_congr_right fun hj => and_congr_right fun hs => mayStandDown_of_eligible (hv.eligible _ (hv.record hj hs)).2)

end Evicted

/-! ### The message in its place -/

section Posted

variable {s u t : State} {own : Code} {k : Nat} {l : List (Fin 64 × Slot)} {p : Posting} {i : Fin 64}
  {bl : Vector (Option (Fin 384)) 8}

/-- The slot taken is the lowest of those that are FREE or go FREE. -/
theorem Evicted.lowest (hE : Evicted l (victimsNoted own k (l.map Prod.fst) s) u) (hi : u.ms.lowestFree = some i) :
    (look s.ms.slots i = none ∨ i ∈ l.map Prod.fst) ∧ ∀ j < i, look s.ms.slots j ≠ none ∧ j ∉ l.map Prod.fst := by
  obtain ⟨hfree, hlow⟩ := lowestFree_some hi
  refine ⟨(hE.slot_free i).1 hfree, fun j hj => ?_⟩
  exact not_or.1 fun h => hlow j hj ((hE.slot_free j).2 h)

/-- From `s` to `t` the victims `l` were evicted for a posting, which then took slot `i` (R78, R83, R153). -/
structure PostTaken (own : Code) (k : Nat) (l : List (Fin 64 × Slot)) (p : Posting) (i : Fin 64)
    (bl : Vector (Option (Fin 384)) 8) (s u t : State) : Prop where
  victims : VictimsOf p.cls l s.ms
  evicted : Evicted l (victimsNoted own k (l.map Prod.fst) s) u
  lowest  : u.ms.lowestFree = some i
  room    : segments p.body.length ≤ u.ms.free.length
  placed  : PostPlaced p ⟨own, Nat.repeat nextSerial k s.du.serial⟩ i bl u t

section Taken

variable (hT : PostTaken own k l p i bl s u t)
include hT

/-- The message is at the tail of its class queue (R136). -/
theorem PostTaken.queue_own : t.ac.queues.get p.cls = s.ac.queues.get p.cls ++ [i] := by
  rw [hT.placed.queues, joinTail_get, if_pos rfl]
  exact congrArg (· ++ [i]) (hT.evicted.queues _ hT.victims.class_lower)

/-- Without victims no other queue changes. -/
theorem PostTaken.queue_other (hl : l = []) {x : MsgClass} (hx : x ≠ p.cls) : t.ac.queues.get x = s.ac.queues.get x := by
  subst hl
  rw [hT.placed.queues, joinTail_get, if_neg hx]
  exact hT.evicted.queues x fun y hy => absurd hy List.not_mem_nil

/-- Without victims the message takes its blocks from those that were free (R70). -/
theorem PostTaken.freeBlocks (hl : l = []) : t.ms.freeBlocks + segments p.body.length = s.ms.freeBlocks := by
  subst hl
  rw [Store.freeBlocks, hT.placed.store.free, List.length_drop, Nat.sub_add_cancel hT.room]
  exact (hT.evicted.free_length hT.victims).trans (Nat.add_zero _)

theorem PostTaken.slot_other {j : Fin 64} (hj : j ≠ i) :
    look t.ms.slots j = if j ∈ l.map Prod.fst then none else look s.ms.slots j :=
  (hT.placed.store.others j hj).trans (hT.evicted.slot j)

/-- The message stored reads back as it was posted (R12, R83). -/
theorem PostTaken.body (hb : p.body.length ≤ 512) :
    t.ms.body { postedSlot p ⟨own, Nat.repeat nextSerial k s.du.serial⟩ u with blocks := bl } = p.body :=
  body_read hT.placed.store hb rfl rfl

/-- The entry of the message: STORED, originated and linked (R98). -/
theorem PostTaken.entry_own (hn : s.idt.find ⟨own, Nat.repeat nextSerial k s.du.serial⟩ = none) :
    t.idt.entry ⟨own, Nat.repeat nextSerial k s.du.serial⟩ =
      some ⟨⟨own, Nat.repeat nextSerial k s.du.serial⟩, .stored, some i, 0, s.idt.sweep.isSome, true, none, false⟩ := by
  rw [hT.placed.idt, link_same, hT.evicted.idt, unlink_all]
  change (if _ then ((enteredTable own s.du.serial k s.idt).entry _).map Entry.evicted
    else (enteredTable own s.du.serial k s.idt).entry _).map _ = _
  rw [enteredTable_own hn]
  split <;> rfl

/-- The entry of a victim: DROPPED, unlinked, its age 0 (R78, R98). -/
theorem PostTaken.entry_victim (hn : s.idt.find ⟨own, Nat.repeat nextSerial k s.du.serial⟩ = none)
    (hA : s.idt.at (.primA (bucketOf ⟨own, Nat.repeat nextSerial k s.du.serial⟩)) = none)
    {x : Fin 64 × Slot} (hx : x ∈ l) {e : Entry} (he : s.idt.entry x.2.id = some e) :
    t.idt.entry x.2.id = some e.evicted := by
  have hid : x.2.id ≠ ⟨own, Nat.repeat nextSerial k s.du.serial⟩ := fun h => by
    rw [h, IdTable.entry, hn] at he
    cases he
  have hr := congrArg (Option.map Entry.evicted) (enteredTable_other (k := k) hid hA)
  rw [Option.map_map, Option.map_map] at hr
  rw [hT.placed.idt, link_other i hid, hT.evicted.idt, unlink_all,
    if_pos (List.mem_map_of_mem (f := fun x => x.2.id) hx)]
  calc ((enteredTable own s.du.serial k s.idt).entry x.2.id).map Entry.evicted
      = (s.idt.entry x.2.id).map Entry.evicted := hr
    _ = some e.evicted := by rw [he]; rfl

/-- The note holds the victims that were HELD or QUEUED, as they stood, with what it held of this moment (Table 8-6, n31). -/
theorem PostTaken.noted (x : Slot) : (t.ms.evictedAt = s.now ∧ x ∈ t.ms.evicted) ↔
    (s.ms.evictedAt = s.now ∧ x ∈ s.ms.evicted)
      ∨ ∃ j ∈ l.map Prod.fst, look s.ms.slots j = some x ∧ (x.state = .held ∨ x.state = .queued) := by
  rw [hT.placed.store.note.1, hT.placed.store.note.2]
  exact hT.evicted.noted hT.victims x

/-- The victims are counted (R78). -/
theorem PostTaken.counted : t.fh = { s.fh with dropped := Nat.repeat satInc (l.map Prod.fst).length s.fh.dropped } := by
  rw [List.length_map]
  exact hT.placed.line.2.trans hT.evicted.fh

/-- The victims are noticed (R78). -/
theorem PostTaken.line : t.ol =
    { s.ol with notices := if l.map Prod.fst = [] then s.ol.notices else s.ol.notices.put .dropped true } := by
  rw [hT.placed.line.1, hT.evicted.ol]
  simp only [List.map_eq_nil_iff]
  rfl

theorem PostTaken.settings : u.ol.settings = s.ol.settings := by
  rw [hT.evicted.ol]
  rfl

theorem PostTaken.serial :
    t.du = { s.du with serial := nextSerial (Nat.repeat nextSerial k s.du.serial) } := by
  rw [hT.placed.du, hT.evicted.du]
  rfl

theorem PostTaken.others : t.mp = s.mp ∧ t.ofm = s.ofm ∧ t.dt = s.dt ∧ t.pins = s.pins ∧ t.now = s.now := by
  obtain ⟨hmp, hofm, hdt, hpins, hnow⟩ := hT.placed.others
  rw [hmp, hofm, hdt, hpins, hnow]
  exact hT.evicted.others

end Taken

/-- A posting that finds a serial and room is taken (R153). -/
theorem postTaken {vs : List (Fin 64)} (ho : s.ol.ownCode = some own) (hk : k ≤ 1280)
    (hs : ∀ j < k, s.idt.find ⟨own, Nat.repeat nextSerial j s.du.serial⟩ ≠ none)
    (hn : s.idt.find ⟨own, Nat.repeat nextSerial k s.du.serial⟩ = none)
    (hA : s.idt.at (.primA (bucketOf ⟨own, Nat.repeat nextSerial k s.du.serial⟩)) = none)
    (hb : p.body.length ≤ 512) (hc : s.ms.Conserved) (hp : s.ms.plan p.cls 1 (segments p.body.length) = some vs) :
    ∃ l i bl u t, vs = l.map Prod.fst ∧ takePost p s = (some ⟨own, Nat.repeat nextSerial k s.du.serial⟩, t)
      ∧ PostTaken own k l p i bl s u t := by
  obtain ⟨l, rfl, hd, hl, hslots, hblocks⟩ := plan_victims hp
  have hv : VictimsOf p.cls l s.ms := ⟨hd, hl⟩
  have hE := evicted_afterVictims (own := own) (k := k) hv
  obtain ⟨i, hi⟩ := hE.lowestFree hslots
  have hroom := Nat.le_trans hblocks (Nat.le_of_eq (hE.free_length hv).symm)
  obtain ⟨bl, hP⟩ := postPlaced (p := p) (id := ⟨own, Nat.repeat nextSerial k s.du.serial⟩) hi hb hroom (hE.free_nodup hc)
  exact ⟨l, i, bl, _, _, rfl, takePost_accepted ho hk hs hn hA hp, hv, hE, hi, hroom, hP⟩

end Posted

/-! ### The closing line answered -/

section Closing

variable {s t : State} {c : Collection} {a : Code × MsgClass × Option Nat} {own : Code}

/-- What a POST asks for (R8, R172). -/
def requested (c : Collection) (a : Code × MsgClass × Option Nat) (s : State) : Posting :=
  ⟨a.1, a.2.1, postBudget a.2.2 s, c.body⟩

/-- The answer to an accepted POST (R8, R153). -/
def acceptedLine (id : Identity) (hops : Option Nat) : Text :=
  unwords ([txt "+POST", identityText id] ++ (if hopsClamped hops then [txt "CLAMPED"] else []))

theorem ownCode_afterClosing (h : PostReady s c a own) : (afterClosing s).ol.ownCode = some own :=
  (takeLine_ownCode ..).trans h.code

/-- A POST that was taken is answered with its identity; only the operator line changes with that (R8, R153). -/
theorem taken_answered {id : Identity} {n : NoticeSet} (h : PostReady s c a own)
    (ht : takePost (requested c a (afterClosing s)) (afterClosing s) = (some id, t))
    (hol : t.ol = { (afterClosing s).ol with notices := n }) :
    ∃ o : OperatorLine, exec .closingLine s = .next (t.withOl o) ∧ Replied .closingLine [acceptedLine id a.2.2] s (t.withOl o)
      ∧ o.post = none ∧ o.notices = n := by
  have ha : Answered .closingLine [acceptedLine id a.2.2] (t.withOl { s.ol with post := none, notices := n }) s := by
    refine answered_of_taken (u := t) ?_ ?_ ?_
    · rw [requested] at ht
      simp only [closingLine_ready h, answerPost, ht]
      rfl
    · rw [hol]; rfl
    · rw [State.calm, hol]
      simp [afterClosing, OperatorLine.calm]
  obtain ⟨t', hx, hrep, hcalm⟩ := ha
  have ho : t' = t.withOl t'.ol := (congrArg (fun r : State => r.withOl t'.ol) hcalm :)
  rw [ho] at hx hrep
  exact ⟨t'.ol, hx, hrep, congrArg (fun r : State => r.ol.post) hcalm, congrArg (fun r : State => r.ol.notices) hcalm⟩

end Closing

/-- Settles O21: the plan's victims are evicted, the message placed in the lowest FREE slot and queued, and the answer placed; a POST of which nothing is taken is answered FULL. -/
theorem acceptedPostIsQueued : Obligations.AcceptedPostIsQueued := by
  refine ⟨?_, fun s c a own h => ⟨fun hn hA hp => ?_, fun hf => ?_⟩, fun m p slots blocks => ⟨?_, ?_, ?_⟩⟩
  · intro s c a own k v vs h hk hv hs hn hA hc hp
    subst hv
    change s.idt.find ⟨own, Nat.repeat nextSerial k s.du.serial⟩ = none at hn
    have hset : (afterClosing s).ol.settings = s.ol.settings := takeLine_settings ..
    have hnot : (afterClosing s).ol.notices = s.ol.notices := takeLine_notices ..
    have hb : (requested c a (afterClosing s)).body.length ≤ 512 := h.whole ▸ h.size.2
    rw [h.whole] at hp ⊢
    obtain ⟨l, i, bl, u, t, rfl, htake, hT⟩ :=
      postTaken (s := afterClosing s) (p := requested c a (afterClosing s)) (ownCode_afterClosing h) hk hs hn hA hb hc hp
    obtain ⟨hfree, hlow⟩ := hT.evicted.lowest hT.lowest
    obtain ⟨-, -, -, -, hnow⟩ := hT.evicted.others
    obtain ⟨o, hx, hrep, hpost, hnotices⟩ := taken_answered h htake hT.line
    rw [hnot] at hnotices
    refine ⟨t.withOl o, i, { postedSlot (requested c a (afterClosing s)) _ u with blocks := bl }, hx, hrep, hpost,
      hT.serial, hT.placed.store.record, hfree, hlow, fun j => hT.slot_other, rfl, rfl, rfl, rfl, rfl, ?budget,
      rfl, rfl, rfl, rfl, rfl, congrArg (·.retry) (hT.settings.trans hset), rfl, rfl, hnow, hT.body hb,
      hT.queue_own, hT.entry_own hn, fun j sj e hj hsj he => hT.entry_victim hn hA (hT.victims.record hj hsj) he,
      hT.counted, hnotices, hT.noted,
      fun hl => ⟨hT.freeBlocks (List.map_eq_nil_iff.1 hl), fun x => hT.queue_other (List.map_eq_nil_iff.1 hl)⟩, hT.others⟩
    case budget => simp only [postedSlot, requested, postBudget, hset]
  · refine full_answered h fun p hcls hlen => takePost_crowded (ownCode_afterClosing h) hn hA ?_
    rw [hcls, hlen]; exact hp
  · exact full_answered h fun p _ _ => takePost_failed (ownCode_afterClosing h) hf
  · exact fun i sl => mem_victims
  · exact victims_sorted m p
  · exact fun vs => plan_iff

end Sys2Proof.Machine
end
